-- ==== Sys2Proof/Word.lean ====
section
/-! DEFINITION. The two widths of the machine: the byte of the registers A, X, Y, SP and of memory, and the 16-bit word of
PC, of addresses and of pointers (00_scope.md R5). -/

namespace Sys2Proof

/-- A register value, a memory byte, an opcode or an operand byte: 8 bits (R5). -/
abbrev Byte := BitVec 8

/-- PC, an effective address, an operand word or a pointer: 16 bits (R5). -/
abbrev Word := BitVec 16

end Sys2Proof
end

