-- ==== Sys2Proof/Config.lean ====
section
/-! DEFINITION. The implementation parameters of 00_scope.md R5. All are fixed; the spec leaves none open, and no step of this
hardware gives a value the spec leaves free, so there is no free value here. -/

namespace Sys2Proof.Config

/-- `MEM_SIZE`, the bytes of the Addressable Memory (R5, R30; 92_eei_decisions.md D22). -/
def memSize : Nat := 65536

/-- The bytes of the longest instruction (R51). -/
def longestInstr : Nat := 3

/-- What every memory byte holds at reset (10_state.md R25, 70_reset_and_hazards.md R180). -/
def resetByte : Byte := 0x00

end Sys2Proof.Config
end

