-- ==== Sys2Proof/Syntax.lean ====
section
/-! DEFINITION. Instructions as data: the mnemonics and formats of 30_encoding.md, the term (mnemonic, format, operand) of R64,
and the one inductive `Instr` with a constructor for each of the 37 rows of the opcode map R56. -/

namespace Sys2Proof

/-- The twelve mnemonics (30_encoding.md R62). -/
inductive Mnemonic where
  | lda | ldx | ldy | sta | stx | sty | tax | tay | txa | tya | tsx | txs
deriving DecidableEq, Repr

/-- The ten formats (30_encoding.md R52). -/
inductive Format where
  | imp | imm | zp | zpx | zpy | abs | abx | aby | izx | izy
deriving DecidableEq, Repr

/-- An operand as written, before it is known to fit: none, one meant for a single operand byte, or one meant for the operand
word (R64 bounds them; the numbers here are not yet bounded). -/
inductive Operand where
  | none
  | byte (b1 : Nat)
  | word (w : Nat)
deriving DecidableEq, Repr

/-- A term (mnemonic, format, operand), which R64 says when to call an instruction. -/
structure Term where
  mnemonic : Mnemonic
  format   : Format
  operand  : Operand
deriving DecidableEq, Repr

/-- The 37 instructions, in the order of the opcode map R56. `b1` is the operand byte, `w = b2:b1` the operand word (R53). -/
inductive Instr where
  | staIzx (b1 : Byte)
  | styZp (b1 : Byte)
  | staZp (b1 : Byte)
  | stxZp (b1 : Byte)
  | txa
  | styAbs (w : Word)
  | staAbs (w : Word)
  | stxAbs (w : Word)
  | staIzy (b1 : Byte)
  | styZpx (b1 : Byte)
  | staZpx (b1 : Byte)
  | stxZpy (b1 : Byte)
  | tya
  | staAby (w : Word)
  | txs
  | staAbx (w : Word)
  | ldyImm (b1 : Byte)
  | ldaIzx (b1 : Byte)
  | ldxImm (b1 : Byte)
  | ldyZp (b1 : Byte)
  | ldaZp (b1 : Byte)
  | ldxZp (b1 : Byte)
  | tay
  | ldaImm (b1 : Byte)
  | tax
  | ldyAbs (w : Word)
  | ldaAbs (w : Word)
  | ldxAbs (w : Word)
  | ldaIzy (b1 : Byte)
  | ldyZpx (b1 : Byte)
  | ldaZpx (b1 : Byte)
  | ldxZpy (b1 : Byte)
  | ldaAby (w : Word)
  | tsx
  | ldyAbx (w : Word)
  | ldaAbx (w : Word)
  | ldxAby (w : Word)
deriving DecidableEq, Repr

end Sys2Proof
end

