-- ==== Sys2Proof/WellFormed.lean ====
section
/-! DEFINITION. When a term is an instruction (30_encoding.md R64): its (mnemonic, format) pair is a row of the opcode map R56
and its operand fits the format. The operands of `Instr` are bit vectors of the operand's own width, so every value of `Instr`
is well formed (assumption log 13); `Instr.toTerm` reads it back as a term. -/

namespace Sys2Proof

/-- The formats a mnemonic has in the opcode map R56. -/
def Mnemonic.formats : Mnemonic → List Format
  | .lda => [.imm, .zp, .zpx, .abs, .abx, .aby, .izx, .izy]
  | .ldx => [.imm, .zp, .zpy, .abs, .aby]
  | .ldy => [.imm, .zp, .zpx, .abs, .abx]
  | .sta => [.zp, .zpx, .abs, .abx, .aby, .izx, .izy]
  | .stx => [.zp, .zpy, .abs]
  | .sty => [.zp, .zpx, .abs]
  | .tax => [.imp]
  | .tay => [.imp]
  | .txa => [.imp]
  | .tya => [.imp]
  | .tsx => [.imp]
  | .txs => [.imp]

/-- The operand fits the format: none for IMP, `0 <= b1 <= 0xFF` for the two-byte formats, `0 <= w <= 0xFFFF` for the three-byte
formats (R64, R52). -/
def Operand.fits : Operand → Format → Bool
  | .none, .imp => true
  | .byte b1, .imm => b1 ≤ 0xFF
  | .byte b1, .zp => b1 ≤ 0xFF
  | .byte b1, .zpx => b1 ≤ 0xFF
  | .byte b1, .zpy => b1 ≤ 0xFF
  | .byte b1, .izx => b1 ≤ 0xFF
  | .byte b1, .izy => b1 ≤ 0xFF
  | .word w, .abs => w ≤ 0xFFFF
  | .word w, .abx => w ≤ 0xFFFF
  | .word w, .aby => w ≤ 0xFFFF
  | _, _ => false

/-- The check of R64: the pair is a row, and the operand fits. -/
def Term.wf (t : Term) : Bool :=
  t.mnemonic.formats.contains t.format && t.operand.fits t.format

/-- An instruction as the term it is: its mnemonic, its format and its operand's value (R56, R64). -/
def Instr.toTerm : Instr → Term
  | .staIzx b1 => ⟨.sta, .izx, .byte b1.toNat⟩
  | .styZp b1 => ⟨.sty, .zp, .byte b1.toNat⟩
  | .staZp b1 => ⟨.sta, .zp, .byte b1.toNat⟩
  | .stxZp b1 => ⟨.stx, .zp, .byte b1.toNat⟩
  | .txa => ⟨.txa, .imp, .none⟩
  | .styAbs w => ⟨.sty, .abs, .word w.toNat⟩
  | .staAbs w => ⟨.sta, .abs, .word w.toNat⟩
  | .stxAbs w => ⟨.stx, .abs, .word w.toNat⟩
  | .staIzy b1 => ⟨.sta, .izy, .byte b1.toNat⟩
  | .styZpx b1 => ⟨.sty, .zpx, .byte b1.toNat⟩
  | .staZpx b1 => ⟨.sta, .zpx, .byte b1.toNat⟩
  | .stxZpy b1 => ⟨.stx, .zpy, .byte b1.toNat⟩
  | .tya => ⟨.tya, .imp, .none⟩
  | .staAby w => ⟨.sta, .aby, .word w.toNat⟩
  | .txs => ⟨.txs, .imp, .none⟩
  | .staAbx w => ⟨.sta, .abx, .word w.toNat⟩
  | .ldyImm b1 => ⟨.ldy, .imm, .byte b1.toNat⟩
  | .ldaIzx b1 => ⟨.lda, .izx, .byte b1.toNat⟩
  | .ldxImm b1 => ⟨.ldx, .imm, .byte b1.toNat⟩
  | .ldyZp b1 => ⟨.ldy, .zp, .byte b1.toNat⟩
  | .ldaZp b1 => ⟨.lda, .zp, .byte b1.toNat⟩
  | .ldxZp b1 => ⟨.ldx, .zp, .byte b1.toNat⟩
  | .tay => ⟨.tay, .imp, .none⟩
  | .ldaImm b1 => ⟨.lda, .imm, .byte b1.toNat⟩
  | .tax => ⟨.tax, .imp, .none⟩
  | .ldyAbs w => ⟨.ldy, .abs, .word w.toNat⟩
  | .ldaAbs w => ⟨.lda, .abs, .word w.toNat⟩
  | .ldxAbs w => ⟨.ldx, .abs, .word w.toNat⟩
  | .ldaIzy b1 => ⟨.lda, .izy, .byte b1.toNat⟩
  | .ldyZpx b1 => ⟨.ldy, .zpx, .byte b1.toNat⟩
  | .ldaZpx b1 => ⟨.lda, .zpx, .byte b1.toNat⟩
  | .ldxZpy b1 => ⟨.ldx, .zpy, .byte b1.toNat⟩
  | .ldaAby w => ⟨.lda, .aby, .word w.toNat⟩
  | .tsx => ⟨.tsx, .imp, .none⟩
  | .ldyAbx w => ⟨.ldy, .abx, .word w.toNat⟩
  | .ldaAbx w => ⟨.lda, .abx, .word w.toNat⟩
  | .ldxAby w => ⟨.ldx, .aby, .word w.toNat⟩

/-- The mnemonic of an instruction (R56). -/
def Instr.mnemonic (i : Instr) : Mnemonic := i.toTerm.mnemonic

/-- The format of an instruction (R56). -/
def Instr.format (i : Instr) : Format := i.toTerm.format

/-- An instruction is well formed when its term is (R64). -/
def Instr.wf (i : Instr) : Bool := i.toTerm.wf

end Sys2Proof
end

