-- ==== Sys2Proof/Decode.lean ====
section
/-! DEFINITION. The opcode map of 30_encoding.md R56 as a table of rows, the decoder that reads it (R51 to R53, R58), and after
it the encoder. Decoding is total on any bytes: it answers an instruction and the bytes that follow it, or rejects by name. -/

namespace Sys2Proof

/-- One row of the opcode map R56. -/
structure OpcodeRow where
  opcode   : Byte
  mnemonic : Mnemonic
  format   : Format
deriving DecidableEq, Repr

/-- Why bytes are not an instruction. -/
inductive DecodeError where
  /-- The first byte is one of the 219 values that select no operation (R58). -/
  | undefinedOpcode (opc : Byte)
  /-- Fewer bytes are given than the instruction has (R51; assumption log 14). A fetch from memory never meets this. -/
  | truncated
deriving DecidableEq, Repr

/-- The rows 0x81 to 0x9D of the opcode map R56. -/
def opcodeRows8 : List OpcodeRow :=
  [⟨0x81, .sta, .izx⟩,
   ⟨0x84, .sty, .zp⟩,
   ⟨0x85, .sta, .zp⟩,
   ⟨0x86, .stx, .zp⟩,
   ⟨0x8A, .txa, .imp⟩,
   ⟨0x8C, .sty, .abs⟩,
   ⟨0x8D, .sta, .abs⟩,
   ⟨0x8E, .stx, .abs⟩,
   ⟨0x91, .sta, .izy⟩,
   ⟨0x94, .sty, .zpx⟩,
   ⟨0x95, .sta, .zpx⟩,
   ⟨0x96, .stx, .zpy⟩,
   ⟨0x98, .tya, .imp⟩,
   ⟨0x99, .sta, .aby⟩,
   ⟨0x9A, .txs, .imp⟩,
   ⟨0x9D, .sta, .abx⟩]

/-- The rows 0xA0 to 0xAE of the opcode map R56. -/
def opcodeRowsA : List OpcodeRow :=
  [⟨0xA0, .ldy, .imm⟩,
   ⟨0xA1, .lda, .izx⟩,
   ⟨0xA2, .ldx, .imm⟩,
   ⟨0xA4, .ldy, .zp⟩,
   ⟨0xA5, .lda, .zp⟩,
   ⟨0xA6, .ldx, .zp⟩,
   ⟨0xA8, .tay, .imp⟩,
   ⟨0xA9, .lda, .imm⟩,
   ⟨0xAA, .tax, .imp⟩,
   ⟨0xAC, .ldy, .abs⟩,
   ⟨0xAD, .lda, .abs⟩,
   ⟨0xAE, .ldx, .abs⟩]

/-- The rows 0xB1 to 0xBE of the opcode map R56. -/
def opcodeRowsB : List OpcodeRow :=
  [⟨0xB1, .lda, .izy⟩,
   ⟨0xB4, .ldy, .zpx⟩,
   ⟨0xB5, .lda, .zpx⟩,
   ⟨0xB6, .ldx, .zpy⟩,
   ⟨0xB9, .lda, .aby⟩,
   ⟨0xBA, .tsx, .imp⟩,
   ⟨0xBC, .ldy, .abx⟩,
   ⟨0xBD, .lda, .abx⟩,
   ⟨0xBE, .ldx, .aby⟩]

/-- The opcode map R56: 37 rows, sorted by opcode value. -/
def opcodeTable : List OpcodeRow := opcodeRows8 ++ opcodeRowsA ++ opcodeRowsB

/-- The row an opcode byte selects, matched on all eight bits (R52); none for the 219 others (R58). -/
def rowOf (opc : Byte) : Option OpcodeRow := opcodeTable.find? (fun r => r.opcode == opc)

/-- The bytes of an instruction of a format, opcode included (R52). -/
def formatLength : Format → Nat
  | .imp => 1
  | .imm => 2
  | .zp => 2
  | .zpx => 2
  | .zpy => 2
  | .abs => 3
  | .abx => 3
  | .aby => 3
  | .izx => 2
  | .izy => 2

/-- The length of the instruction an opcode byte begins, a function of that byte alone (R51). -/
def opcodeLength (opc : Byte) : Option Nat := (rowOf opc).map (fun r => formatLength r.format)

/-- The length of an instruction in bytes (R51). -/
def instrLength (i : Instr) : Nat := formatLength i.format

/-- The operand word `w = b2:b1 = b2 * 256 + b1`, the first operand byte being the low byte (R53). -/
def operandWord (b1 b2 : Byte) : Word := b2 ++ b1

/-- The low byte of a 16-bit value, `v[7:0]`. -/
def lowByte (w : Word) : Byte := w.extractLsb' 0 8

/-- The high byte of a 16-bit value, `v[15:8]`. -/
def highByte (w : Word) : Byte := w.extractLsb' 8 8

/-- The instruction of a (mnemonic, format) pair with the operand bytes `b1` and `b2`; a format reads only the bytes it has (R50,
R52, R53). None for a pair that is not a row of R56 (R64). -/
def assemble (m : Mnemonic) (f : Format) (b1 b2 : Byte) : Option Instr :=
  match m, f with
  | .sta, .izx => some (.staIzx b1)
  | .sty, .zp => some (.styZp b1)
  | .sta, .zp => some (.staZp b1)
  | .stx, .zp => some (.stxZp b1)
  | .txa, .imp => some .txa
  | .sty, .abs => some (.styAbs (operandWord b1 b2))
  | .sta, .abs => some (.staAbs (operandWord b1 b2))
  | .stx, .abs => some (.stxAbs (operandWord b1 b2))
  | .sta, .izy => some (.staIzy b1)
  | .sty, .zpx => some (.styZpx b1)
  | .sta, .zpx => some (.staZpx b1)
  | .stx, .zpy => some (.stxZpy b1)
  | .tya, .imp => some .tya
  | .sta, .aby => some (.staAby (operandWord b1 b2))
  | .txs, .imp => some .txs
  | .sta, .abx => some (.staAbx (operandWord b1 b2))
  | .ldy, .imm => some (.ldyImm b1)
  | .lda, .izx => some (.ldaIzx b1)
  | .ldx, .imm => some (.ldxImm b1)
  | .ldy, .zp => some (.ldyZp b1)
  | .lda, .zp => some (.ldaZp b1)
  | .ldx, .zp => some (.ldxZp b1)
  | .tay, .imp => some .tay
  | .lda, .imm => some (.ldaImm b1)
  | .tax, .imp => some .tax
  | .ldy, .abs => some (.ldyAbs (operandWord b1 b2))
  | .lda, .abs => some (.ldaAbs (operandWord b1 b2))
  | .ldx, .abs => some (.ldxAbs (operandWord b1 b2))
  | .lda, .izy => some (.ldaIzy b1)
  | .ldy, .zpx => some (.ldyZpx b1)
  | .lda, .zpx => some (.ldaZpx b1)
  | .ldx, .zpy => some (.ldxZpy b1)
  | .lda, .aby => some (.ldaAby (operandWord b1 b2))
  | .tsx, .imp => some .tsx
  | .ldy, .abx => some (.ldyAbx (operandWord b1 b2))
  | .lda, .abx => some (.ldaAbx (operandWord b1 b2))
  | .ldx, .aby => some (.ldxAby (operandWord b1 b2))
  | _, _ => none

/-- The operand bytes `b1` and `b2` an instruction of a length takes from the bytes after its opcode, and the bytes left over; a
byte the length does not have is given as zero and read by nothing (R50, R51). None when bytes are missing. -/
def takeOperands : Nat → List Byte → Option (Byte × Byte × List Byte)
  | 1, rest => some (0x00, 0x00, rest)
  | 2, b1 :: rest => some (b1, 0x00, rest)
  | 3, b1 :: b2 :: rest => some (b1, b2, rest)
  | _, _ => none

/-- Decode: the opcode byte selects its row by exact match, and the row's format says how many operand bytes follow (R51, R52,
R56). A byte that is no row's opcode is rejected whatever follows it (R58). -/
def decode : List Byte → Except DecodeError (Instr × List Byte)
  | [] => .error .truncated
  | opc :: rest =>
    match rowOf opc with
    | none => .error (.undefinedOpcode opc)
    | some r =>
      match takeOperands (formatLength r.format) rest with
      | none => .error .truncated
      | some (b1, b2, rest') =>
        match assemble r.mnemonic r.format b1 b2 with
        | none => .error (.undefinedOpcode opc)
        | some i => .ok (i, rest')

/-- The instruction a term is, if it is one: its pair is a row of R56 and its operand fits the row's format (R64). -/
def Term.toInstr? (t : Term) : Option Instr :=
  if t.operand.fits t.format then
    match t.operand with
    | .none => assemble t.mnemonic t.format 0x00 0x00
    | .byte b1 => assemble t.mnemonic t.format (BitVec.ofNat 8 b1) 0x00
    | .word w => assemble t.mnemonic t.format (lowByte (BitVec.ofNat 16 w)) (highByte (BitVec.ofNat 16 w))
  else none

/-- The bytes of an instruction, the opcode byte of R56 first and the operand word low byte first (R51 to R53). -/
def encode : Instr → List Byte
  | .staIzx b1 => [0x81, b1]
  | .styZp b1 => [0x84, b1]
  | .staZp b1 => [0x85, b1]
  | .stxZp b1 => [0x86, b1]
  | .txa => [0x8A]
  | .styAbs w => [0x8C, lowByte w, highByte w]
  | .staAbs w => [0x8D, lowByte w, highByte w]
  | .stxAbs w => [0x8E, lowByte w, highByte w]
  | .staIzy b1 => [0x91, b1]
  | .styZpx b1 => [0x94, b1]
  | .staZpx b1 => [0x95, b1]
  | .stxZpy b1 => [0x96, b1]
  | .tya => [0x98]
  | .staAby w => [0x99, lowByte w, highByte w]
  | .txs => [0x9A]
  | .staAbx w => [0x9D, lowByte w, highByte w]
  | .ldyImm b1 => [0xA0, b1]
  | .ldaIzx b1 => [0xA1, b1]
  | .ldxImm b1 => [0xA2, b1]
  | .ldyZp b1 => [0xA4, b1]
  | .ldaZp b1 => [0xA5, b1]
  | .ldxZp b1 => [0xA6, b1]
  | .tay => [0xA8]
  | .ldaImm b1 => [0xA9, b1]
  | .tax => [0xAA]
  | .ldyAbs w => [0xAC, lowByte w, highByte w]
  | .ldaAbs w => [0xAD, lowByte w, highByte w]
  | .ldxAbs w => [0xAE, lowByte w, highByte w]
  | .ldaIzy b1 => [0xB1, b1]
  | .ldyZpx b1 => [0xB4, b1]
  | .ldaZpx b1 => [0xB5, b1]
  | .ldxZpy b1 => [0xB6, b1]
  | .ldaAby w => [0xB9, lowByte w, highByte w]
  | .tsx => [0xBA]
  | .ldyAbx w => [0xBC, lowByte w, highByte w]
  | .ldaAbx w => [0xBD, lowByte w, highByte w]
  | .ldxAby w => [0xBE, lowByte w, highByte w]

/-- The `n` bytes of a number, least significant first: the order in which an instruction's bytes lie at rising addresses (R51). -/
def bytesOfNat : Nat → Nat → List Byte
  | 0, _ => []
  | n + 1, w => BitVec.ofNat 8 w :: bytesOfNat n (w / 256)

/-- An instruction whose table bits are `w`, laid out as the hardware stores it, with every bit above `nbits` zero, up to the
longest instruction. -/
def tableBytes (nbits w : Nat) : List Byte := bytesOfNat Config.longestInstr (w % 2 ^ nbits)

/-- The instruction the decoder reads from table bits `w` (bit 0 the least significant bit of the opcode byte). -/
def decodeTableWord (nbits w : Nat) : Option Instr :=
  match decode (tableBytes nbits w) with
  | .ok (i, _) => some i
  | .error _ => none

end Sys2Proof
end

