-- ==== Sys2Proof/Machine/State.lean ====
section
/-! DEFINITION. The state of the EXU (00_scope.md R7, 10_state.md), the ways a step can stop, and the state after reset. -/

namespace Sys2Proof.Machine

/-- The Addressable Memory (20_memory.md R30) as (address, byte) pairs: addresses strictly rising, all below `Config.memSize`,
and none listed that holds what an unlisted address reads as (`Memory.wf` in Machine/Ops.lean; assumption log 6). -/
abbrev Memory := List Host.Cell

/-- All of the machine's state: "exactly A, X, Y, SP, PC, the seven flags and the 65536 memory bytes" (R7). The flags are seven
separate bits, no fields of a status byte (R16). -/
structure State where
  /-- The accumulator (R10). -/
  a     : Byte
  /-- Index register X (R11). -/
  x     : Byte
  /-- Index register Y (R12). -/
  y     : Byte
  /-- The stack pointer, plain storage in this block (R13). -/
  sp    : Byte
  /-- The program counter: between steps, the address of the next opcode byte (R15). -/
  pc    : Word
  /-- Carry (R16, R18). -/
  flagC : Bool
  /-- Zero (R16, R17). -/
  flagZ : Bool
  /-- Interrupt-disable, inert storage (R16, R18). -/
  flagI : Bool
  /-- Decimal-mode, inert storage (R16, R18). -/
  flagD : Bool
  /-- Break, inert storage (R16, R18). -/
  flagB : Bool
  /-- Overflow (R16, R18). -/
  flagV : Bool
  /-- Negative (R16, R17). -/
  flagN : Bool
  /-- The Addressable Memory (R30). -/
  mem   : Memory
deriving DecidableEq, Repr

/-- The faults of the machine: there are none. "The EXU raises no synchronous exception" (60_exceptions.md R160), so the type has
no constructor and no step can answer a fault (assumption log 12). -/
inductive Fault where
deriving DecidableEq, Repr

/-- The refusals of the machine. -/
inductive Refusal where
  /-- An instruction with no meaning yet, raised by `exec` alone. Every instruction has its meaning, so nothing raises it; it
  would be safe, as it only stops. -/
  | notModelled (mnemonic : String)
  /-- Raised by `step` when the bytes at PC are no instruction: by R58, when the opcode byte is one of the 219 undefined values.
  Safe: the run stops, the state it stopped in stays as it was, and no claim of success passes through (R58, R187; assumption
  log 5). -/
  | undecodable (why : DecodeError)
deriving DecidableEq, Repr

/-- The machine right after reset. Memory is 0x00 everywhere (10_state.md R25, 70_reset_and_hazards.md R180). The spec gives no
value for any register or flag: they are free inputs of the launch state (R25, R181). The zeros below are DESIGN CHOICE, unsafe
(assumption logs 1, 2, 3); `Launch.state` builds every launch state the spec admits. -/
def State.reset : State where
  a     := 0x00
  x     := 0x00
  y     := 0x00
  sp    := 0x00
  pc    := 0x0000
  flagC := false
  flagZ := false
  flagI := false
  flagD := false
  flagB := false
  flagV := false
  flagN := false
  mem   := []

end Sys2Proof.Machine
end

