-- ==== Sys2Proof/Machine/Ops.lean ====
section
/-! DEFINITION. The named operations over memory and registers. Memory: the canonical form, the byte of an address, and the four
primitives of 20_memory.md (R31 to R36). Registers: one write for each (10_state.md). There is no operation that takes an
exception and none that returns from one: the block has neither (60_exceptions.md R160, R164, R165). -/

namespace Sys2Proof.Machine

/-- What an unlisted address reads as: the reset content of memory (10_state.md R25, 70_reset_and_hazards.md R180). -/
def Memory.unlisted : Byte := Config.resetByte

/-- Addresses rise strictly from `lo` on and lie inside the address space, and no entry holds the unlisted value. -/
def Memory.wfFrom : Nat → Memory → Bool
  | _, [] => true
  | lo, (a, v) :: m => decide (lo ≤ a) && decide (a < Config.memSize) && (v != Memory.unlisted) && Memory.wfFrom (a + 1) m

/-- The canonical form: two memories in it are equal data exactly when every address reads the same (assumption log 6). -/
def Memory.wf (m : Memory) : Bool := Memory.wfFrom 0 m

/-- The content of an address already inside the address space. -/
def Memory.lookup : Memory → Nat → Byte
  | [], _ => Memory.unlisted
  | (k, v) :: m, a => if k = a then v else Memory.lookup m a

/-- The memory with an address unlisted. -/
def Memory.unlist : Memory → Nat → Memory
  | [], _ => []
  | (k, v) :: m, a => if k = a then Memory.unlist m a else (k, v) :: Memory.unlist m a

/-- The memory with an entry put before the first entry of a higher address. -/
def Memory.enlist : Memory → Nat → Byte → Memory
  | [], a, v => [(a, v)]
  | (k, w) :: m, a, v => if a < k then (a, v) :: (k, w) :: m else (k, w) :: Memory.enlist m a v

/-- The memory with a byte put at an address; storing the unlisted value unlists the address. -/
def Memory.store (m : Memory) (a : Nat) (v : Byte) : Memory :=
  if v = Memory.unlisted then m.unlist a else (m.unlist a).enlist a v

/-- `MemRead(addr, 1)`, `readByte`: the byte at `addr mod 65536` (R31, R32). -/
def Memory.readByte (m : Memory) (addr : Nat) : Byte := m.lookup (addr % Config.memSize)

/-- `MemRead(addr, 2)`, `readWord`: little-endian, the high byte from `(addr + 1) mod 65536` (R33). -/
def Memory.readWord (m : Memory) (addr : Nat) : Word := operandWord (m.readByte addr) (m.readByte (addr + 1))

/-- `MemWrite(addr, 1, v)`, `writeByte`: `v mod 256` is stored at `addr mod 65536` and returned (R34). -/
def Memory.writeByte (m : Memory) (addr v : Nat) : Byte × Memory :=
  (BitVec.ofNat 8 v, m.store (addr % Config.memSize) (BitVec.ofNat 8 v))

/-- `MemWrite(addr, 2, v)`, `writeWord`: the low byte at `addr mod 65536`, then the high byte at `(addr + 1) mod 65536`; the
stored value is returned (R35; a wider `v` is reduced, assumption log 8). -/
def Memory.writeWord (m : Memory) (addr v : Nat) : Word × Memory :=
  (BitVec.ofNat 16 v,
    (((m.writeByte addr (lowByte (BitVec.ofNat 16 v)).toNat).2).writeByte (addr + 1) (highByte (BitVec.ofNat 16 v)).toNat).2)

/-- `A <- v` (R10). -/
def State.writeA (v : Byte) (s : State) : State := { s with a := v }

/-- `X <- v` (R11). -/
def State.writeX (v : Byte) (s : State) : State := { s with x := v }

/-- `Y <- v` (R12). -/
def State.writeY (v : Byte) (s : State) : State := { s with y := v }

/-- `SP <- v` (R13). -/
def State.writeSP (v : Byte) (s : State) : State := { s with sp := v }

/-- `PC <- v` (R15). -/
def State.writePC (v : Word) (s : State) : State := { s with pc := v }

/-- The memory put in place of the old one. -/
def State.writeMem (m : Memory) (s : State) : State := { s with mem := m }

/-- The effective value at an address: `MemRead(EA, 1)` (R32, R72). -/
def memValue (ea : Word) (s : State) : Byte := s.mem.readByte ea.toNat

/-- The last access of every store: `MemWrite(EA, 1, v)`, nothing else changing (R34, R130). -/
def storeByte (ea : Word) (v : Byte) (s : State) : State := s.writeMem (s.mem.writeByte ea.toNat v.toNat).2

/-- `PC <- (PC + len) mod 65536` (30_encoding.md R59, R60). -/
def advancePC (len : Nat) (s : State) : State := s.writePC (s.pc + BitVec.ofNat 16 len)

end Sys2Proof.Machine
end

