-- ==== Sys2Proof/Machine/Flags.lean ====
section
/-! DEFINITION. The flag-evaluation helpers of 10_state.md (R23, R24), generic in the width of the result as FNES has them, and
the register writes that carry them (R17). No other flag is computed by anything in this block (R18). -/

namespace Sys2Proof.Machine

/-- `checkNegative`: N is the top bit of the result at its own width (R23). -/
def checkNegative {w : Nat} (result : BitVec w) (s : State) : State := { s with flagN := result.msb }

/-- `checkZero`: Z is 1 exactly when the result is 0 (R24). -/
def checkZero {w : Nat} (result : BitVec w) (s : State) : State := { s with flagZ := result == 0#w }

/-- `SetNZ(v)`: `checkNegative` then `checkZero` at width 8 (R24). -/
def setNZ (v : Byte) (s : State) : State := checkZero v (checkNegative v s)

/-- A is written, and N and Z from the value (R17, R100, R150). -/
def putA (v : Byte) (s : State) : State := setNZ v (s.writeA v)

/-- X is written, and N and Z from the value (R17, R100, R150). -/
def putX (v : Byte) (s : State) : State := setNZ v (s.writeX v)

/-- Y is written, and N and Z from the value (R17, R100, R150). -/
def putY (v : Byte) (s : State) : State := setNZ v (s.writeY v)

/-- SP is written, and N and Z from the value (R17, R156). -/
def putSP (v : Byte) (s : State) : State := setNZ v (s.writeSP v)

end Sys2Proof.Machine
end

