-- ==== Sys2Proof/Machine/Operands.lean ====
section
/-! DEFINITION. Where an operand is: the effective address of each format with one, from the operand bytes and the state at the
start of the instruction (40_addressing_modes.md R72 to R79, R82). Formats IMP and IMM have no address (R70, R71). No mode
changes the state (R80). -/

namespace Sys2Proof.Machine

/-- `zext_16(b)`: the byte as a 16-bit value with bits 15 to 8 zero (R53). -/
def zext16 (b : Byte) : Word := b.setWidth 16

/-- ZP: the operand byte is the address (R72). -/
def zpEA (b1 : Byte) : Word := zext16 b1

/-- ZPX: the 8-bit sum wraps inside the zero page (R73). -/
def zpxEA (b1 : Byte) (s : State) : Word := zext16 (b1 + s.x)

/-- ZPY: as ZPX, with Y (R74). -/
def zpyEA (b1 : Byte) (s : State) : Word := zext16 (b1 + s.y)

/-- ABS: the operand word is the address (R75). -/
def absEA (w : Word) : Word := w

/-- ABX: the 16-bit sum wraps at the top of memory; X is zero-extended (R76). -/
def abxEA (w : Word) (s : State) : Word := w + zext16 s.x

/-- ABY: as ABX, with Y (R77). -/
def abyEA (w : Word) (s : State) : Word := w + zext16 s.y

/-- A pointer at `p`: a 16-bit little-endian word, the high byte from `(p + 1) mod 65536` even for `p` = 0x00FF (R78, R79;
92_eei_decisions.md D8, D9). -/
def pointerAt (p : Word) (s : State) : Word := s.mem.readWord p.toNat

/-- The zero-page location of the pointer of format IZX (R78). -/
def izxPointer (b1 : Byte) (s : State) : Word := zext16 (b1 + s.x)

/-- IZX, `($nn,X)`: the pointer at `(b1 + X) mod 256` is the address (R78). -/
def izxEA (b1 : Byte) (s : State) : Word := pointerAt (izxPointer b1 s) s

/-- The zero-page location of the pointer of format IZY (R79). -/
def izyPointer (b1 : Byte) : Word := zext16 b1

/-- IZY, `($nn),Y`: the pointer at `b1`, plus Y with a 16-bit wrap (R79). -/
def izyEA (b1 : Byte) (s : State) : Word := pointerAt (izyPointer b1) s + zext16 s.y

end Sys2Proof.Machine
end

