-- ==== Sys2Proof/Machine/Loads.lean ====
section
/-! DEFINITION. The eighteen loads (41_loads.md). By R100 a load takes the effective value of its mode, writes it to its register
and writes N and Z from it; it writes nothing else and never fails. PC is advanced by `step`, not here (R15). -/

namespace Sys2Proof.Machine

/-- `LDA #$nn` (R101). -/
def execLdaImm (b1 : Byte) (s : State) : Host.Outcome State Fault Refusal :=
  .next (putA b1 s)

/-- `LDA $nn` (R102). -/
def execLdaZp (b1 : Byte) (s : State) : Host.Outcome State Fault Refusal :=
  .next (putA (memValue (zpEA b1) s) s)

/-- `LDA $nn,X` (R103). -/
def execLdaZpx (b1 : Byte) (s : State) : Host.Outcome State Fault Refusal :=
  .next (putA (memValue (zpxEA b1 s) s) s)

/-- `LDA $nnnn` (R104). -/
def execLdaAbs (w : Word) (s : State) : Host.Outcome State Fault Refusal :=
  .next (putA (memValue (absEA w) s) s)

/-- `LDA $nnnn,X` (R105). -/
def execLdaAbx (w : Word) (s : State) : Host.Outcome State Fault Refusal :=
  .next (putA (memValue (abxEA w s) s) s)

/-- `LDA $nnnn,Y` (R106). -/
def execLdaAby (w : Word) (s : State) : Host.Outcome State Fault Refusal :=
  .next (putA (memValue (abyEA w s) s) s)

/-- `LDA ($nn,X)` (R107). -/
def execLdaIzx (b1 : Byte) (s : State) : Host.Outcome State Fault Refusal :=
  .next (putA (memValue (izxEA b1 s) s) s)

/-- `LDA ($nn),Y` (R108). -/
def execLdaIzy (b1 : Byte) (s : State) : Host.Outcome State Fault Refusal :=
  .next (putA (memValue (izyEA b1 s) s) s)

/-- `LDX #$nn` (R109). -/
def execLdxImm (b1 : Byte) (s : State) : Host.Outcome State Fault Refusal :=
  .next (putX b1 s)

/-- `LDX $nn` (R110). -/
def execLdxZp (b1 : Byte) (s : State) : Host.Outcome State Fault Refusal :=
  .next (putX (memValue (zpEA b1) s) s)

/-- `LDX $nn,Y` (R111). -/
def execLdxZpy (b1 : Byte) (s : State) : Host.Outcome State Fault Refusal :=
  .next (putX (memValue (zpyEA b1 s) s) s)

/-- `LDX $nnnn` (R112). -/
def execLdxAbs (w : Word) (s : State) : Host.Outcome State Fault Refusal :=
  .next (putX (memValue (absEA w) s) s)

/-- `LDX $nnnn,Y` (R113). -/
def execLdxAby (w : Word) (s : State) : Host.Outcome State Fault Refusal :=
  .next (putX (memValue (abyEA w s) s) s)

/-- `LDY #$nn` (R114). -/
def execLdyImm (b1 : Byte) (s : State) : Host.Outcome State Fault Refusal :=
  .next (putY b1 s)

/-- `LDY $nn` (R115). -/
def execLdyZp (b1 : Byte) (s : State) : Host.Outcome State Fault Refusal :=
  .next (putY (memValue (zpEA b1) s) s)

/-- `LDY $nn,X` (R116). -/
def execLdyZpx (b1 : Byte) (s : State) : Host.Outcome State Fault Refusal :=
  .next (putY (memValue (zpxEA b1 s) s) s)

/-- `LDY $nnnn` (R117). -/
def execLdyAbs (w : Word) (s : State) : Host.Outcome State Fault Refusal :=
  .next (putY (memValue (absEA w) s) s)

/-- `LDY $nnnn,X` (R118). -/
def execLdyAbx (w : Word) (s : State) : Host.Outcome State Fault Refusal :=
  .next (putY (memValue (abxEA w s) s) s)

end Sys2Proof.Machine
end

