-- ==== Sys2Proof/Machine/Stores.lean ====
section
/-! DEFINITION. The thirteen stores (42_stores.md). By R130 a store writes its source register to the memory byte at the effective
address of its mode; it writes no register and no flag, and never fails. The effective address, pointer bytes included, is
computed before the write (R81). -/

namespace Sys2Proof.Machine

/-- `STA $nn` (R131). -/
def execStaZp (b1 : Byte) (s : State) : Host.Outcome State Fault Refusal :=
  .next (storeByte (zpEA b1) s.a s)

/-- `STA $nn,X` (R132). -/
def execStaZpx (b1 : Byte) (s : State) : Host.Outcome State Fault Refusal :=
  .next (storeByte (zpxEA b1 s) s.a s)

/-- `STA $nnnn` (R133). -/
def execStaAbs (w : Word) (s : State) : Host.Outcome State Fault Refusal :=
  .next (storeByte (absEA w) s.a s)

/-- `STA $nnnn,X` (R134). -/
def execStaAbx (w : Word) (s : State) : Host.Outcome State Fault Refusal :=
  .next (storeByte (abxEA w s) s.a s)

/-- `STA $nnnn,Y` (R135). -/
def execStaAby (w : Word) (s : State) : Host.Outcome State Fault Refusal :=
  .next (storeByte (abyEA w s) s.a s)

/-- `STA ($nn,X)` (R136). -/
def execStaIzx (b1 : Byte) (s : State) : Host.Outcome State Fault Refusal :=
  .next (storeByte (izxEA b1 s) s.a s)

/-- `STA ($nn),Y` (R137). -/
def execStaIzy (b1 : Byte) (s : State) : Host.Outcome State Fault Refusal :=
  .next (storeByte (izyEA b1 s) s.a s)

/-- `STX $nn` (R138). -/
def execStxZp (b1 : Byte) (s : State) : Host.Outcome State Fault Refusal :=
  .next (storeByte (zpEA b1) s.x s)

/-- `STX $nn,Y` (R139). -/
def execStxZpy (b1 : Byte) (s : State) : Host.Outcome State Fault Refusal :=
  .next (storeByte (zpyEA b1 s) s.x s)

/-- `STX $nnnn` (R140). -/
def execStxAbs (w : Word) (s : State) : Host.Outcome State Fault Refusal :=
  .next (storeByte (absEA w) s.x s)

/-- `STY $nn` (R141). -/
def execStyZp (b1 : Byte) (s : State) : Host.Outcome State Fault Refusal :=
  .next (storeByte (zpEA b1) s.y s)

/-- `STY $nn,X` (R142). -/
def execStyZpx (b1 : Byte) (s : State) : Host.Outcome State Fault Refusal :=
  .next (storeByte (zpxEA b1 s) s.y s)

/-- `STY $nnnn` (R143). -/
def execStyAbs (w : Word) (s : State) : Host.Outcome State Fault Refusal :=
  .next (storeByte (absEA w) s.y s)

end Sys2Proof.Machine
end

