-- ==== Sys2Proof/Machine/Transfers.lean ====
section
/-! DEFINITION. The six register transfers (43_transfers.md). By R150 a transfer copies its source register to its destination,
touches no memory, and writes N and Z from the value; TSX alone writes no flag. The flags of TSX and TXS are the spec's, not
those of the real 6502 (90_conflicts.md C8; assumption log 17). -/

namespace Sys2Proof.Machine

/-- `TAX` (R151). -/
def execTax (s : State) : Host.Outcome State Fault Refusal := .next (putX s.a s)

/-- `TAY` (R152). -/
def execTay (s : State) : Host.Outcome State Fault Refusal := .next (putY s.a s)

/-- `TXA` (R153). -/
def execTxa (s : State) : Host.Outcome State Fault Refusal := .next (putA s.x s)

/-- `TYA` (R154). -/
def execTya (s : State) : Host.Outcome State Fault Refusal := .next (putA s.y s)

/-- `TSX`: no flag is written (R155). -/
def execTsx (s : State) : Host.Outcome State Fault Refusal := .next (s.writeX s.sp)

/-- `TXS`: N and Z are written, by the general rule for transfers (R156). -/
def execTxs (s : State) : Host.Outcome State Fault Refusal := .next (putSP s.x s)

end Sys2Proof.Machine
end

