-- ==== Sys2Proof/Machine/Fetch.lean ====
section
/-! DEFINITION. Fetching: the bytes the reference dispatcher reads at PC (30_encoding.md R59), and placing an instruction's bytes
where it reads them. -/

namespace Sys2Proof.Machine

/-- The opcode byte at PC (R59). -/
def fetchOpcode (s : State) : Byte := s.mem.readByte s.pc.toNat

/-- The bytes of one fetch: the opcode byte, then as many operand bytes as its row has, each address modulo 65536; for an
undefined opcode no byte beyond it is read (R58, R59, R60). -/
def fetchBytes (s : State) : List Byte :=
  match opcodeLength (fetchOpcode s) with
  | some 2 => [fetchOpcode s, s.mem.readByte (s.pc.toNat + 1)]
  | some 3 => [fetchOpcode s, s.mem.readByte (s.pc.toNat + 1), s.mem.readByte (s.pc.toNat + 2)]
  | _ => [fetchOpcode s]

/-- The instruction at PC, or why there is none (R59). All its bytes are read before it runs (R46). -/
def fetch (s : State) : Except DecodeError Instr :=
  match decode (fetchBytes s) with
  | .ok (i, _) => .ok i
  | .error e => .error e

/-- Bytes placed at rising addresses, each modulo 65536 (R51). -/
def placeBytes : List Byte → Nat → Memory → Memory
  | [], _, m => m
  | b :: bs, addr, m => placeBytes bs (addr + 1) (m.writeByte addr b.toNat).2

/-- The bytes of `bs` that the instruction they begin has (one, when they begin none). -/
def ownBytes (bs : List Byte) : List Byte :=
  match bs with
  | [] => []
  | opc :: _ => bs.take ((opcodeLength opc).getD 1)

end Sys2Proof.Machine
end

