-- ==== Sys2Proof/Machine/Step.lean ====
section
/-! DEFINITION. `Step`, the reference dispatcher (30_encoding.md R59): fetch, advance PC by the instruction's length, then `Exec`.
A byte that is no opcode is refused and nothing changes (R58). -/

namespace Sys2Proof.Machine

/-- One step (R59). PC is advanced before the instruction runs; no instruction reads or writes it (R15). -/
def step (s : State) : Host.Outcome State Fault Refusal :=
  match fetch s with
  | .error e => .refused (.undecodable e)
  | .ok i => exec i (advancePC (instrLength i) s)

/-- The instruction of table bits `w` placed at PC, where `step` fetches next: its own bytes and nothing else (assumption logs 4
and 15). -/
def State.withFetchWord (s : State) (nbits w : Nat) : State :=
  s.writeMem (placeBytes (ownBytes (tableBytes nbits w)) s.pc.toNat s.mem)

end Sys2Proof.Machine
end

