-- ==== Sys2Proof/Machine/Assembler.lean ====
section
/-! DEFINITION. Assembler text of an instruction and back (30_encoding.md R62): a three-letter upper-case mnemonic, then an operand
in a form that identifies the addressing mode; two hexadecimal digits for a byte, four for the word, high byte first. Texts are
lists of characters. There are no pseudo-instructions (R63). -/

namespace Sys2Proof.Machine

/-- The mnemonic as text (R62). -/
def mnemonicText : Mnemonic → List Char
  | .lda => ['L', 'D', 'A']
  | .ldx => ['L', 'D', 'X']
  | .ldy => ['L', 'D', 'Y']
  | .sta => ['S', 'T', 'A']
  | .stx => ['S', 'T', 'X']
  | .sty => ['S', 'T', 'Y']
  | .tax => ['T', 'A', 'X']
  | .tay => ['T', 'A', 'Y']
  | .txa => ['T', 'X', 'A']
  | .tya => ['T', 'Y', 'A']
  | .tsx => ['T', 'S', 'X']
  | .txs => ['T', 'X', 'S']

/-- All mnemonics, in the order of R62. -/
def mnemonics : List Mnemonic := [.lda, .ldx, .ldy, .sta, .stx, .sty, .tax, .tay, .txa, .tya, .tsx, .txs]

/-- The hexadecimal digits in order of value. -/
def hexDigits : List Char := ['0', '1', '2', '3', '4', '5', '6', '7', '8', '9', 'A', 'B', 'C', 'D', 'E', 'F']

/-- A value below 16 as a hexadecimal digit. -/
def hexDigit (n : Nat) : Char := hexDigits.getD n '0'

/-- The value of an upper-case hexadecimal digit (assumption log 18). -/
def hexValue (c : Char) : Option Nat := hexDigits.findIdx? (fun d => d == c)

/-- A byte value as two digits. -/
def hex2 (n : Nat) : List Char := [hexDigit (n / 16 % 16), hexDigit (n % 16)]

/-- A word value as four digits, high byte first (R62). -/
def hex4 (n : Nat) : List Char := hex2 (n / 256) ++ hex2 (n % 256)

/-- The operand's digits with the dollar sign. -/
def operandText : Operand → List Char
  | .none => []
  | .byte b1 => '$' :: hex2 b1
  | .word w => '$' :: hex4 w

/-- The text of a term, in the form of its format (R62). -/
def termText (t : Term) : List Char :=
  let op := operandText t.operand
  mnemonicText t.mnemonic ++
    match t.format with
    | .imp => []
    | .imm => ' ' :: '#' :: op
    | .zp => ' ' :: op
    | .zpx => ' ' :: op ++ [',', 'X']
    | .zpy => ' ' :: op ++ [',', 'Y']
    | .abs => ' ' :: op
    | .abx => ' ' :: op ++ [',', 'X']
    | .aby => ' ' :: op ++ [',', 'Y']
    | .izx => ' ' :: '(' :: op ++ [',', 'X', ')']
    | .izy => ' ' :: '(' :: op ++ [')', ',', 'Y']

/-- The text of an instruction (R62). -/
def asmText (i : Instr) : List Char := termText i.toTerm

/-- Two hexadecimal digits at the head of a text: their value, and what follows them. -/
def hexPair : List Char → Option (Nat × List Char)
  | h0 :: h1 :: rest =>
    match hexValue h0, hexValue h1 with
    | some d0, some d1 => some (d0 * 16 + d1, rest)
    | _, _ => none
  | _ => none

/-- The format of a direct operand, by what follows its digits: nothing, or an index register (R62). -/
def indexSuffix (plain byX byY : Format) : List Char → Option Format
  | [] => some plain
  | [',', 'X'] => some byX
  | [',', 'Y'] => some byY
  | _ => none

/-- A direct operand after its dollar sign: two digits select the zero-page formats, four the absolute ones (R62). -/
def parseDirect (text : List Char) : Option (Format × Operand) :=
  match hexPair text with
  | none => none
  | some (n, rest) =>
    match hexPair rest with
    | some (lo, rest') => (indexSuffix .abs .abx .aby rest').map (fun f => (f, .word (n * 256 + lo)))
    | none => (indexSuffix .zp .zpx .zpy rest).map (fun f => (f, .byte n))

/-- The format and operand a text after the mnemonic names (R62). -/
def parseOperand : List Char → Option (Format × Operand)
  | [] => some (.imp, .none)
  | ' ' :: '#' :: '$' :: rest =>
    match hexPair rest with
    | some (n, []) => some (.imm, .byte n)
    | _ => none
  | ' ' :: '(' :: '$' :: rest =>
    match hexPair rest with
    | some (n, [',', 'X', ')']) => some (.izx, .byte n)
    | some (n, [')', ',', 'Y']) => some (.izy, .byte n)
    | _ => none
  | ' ' :: '$' :: rest => parseDirect rest
  | _ => none

/-- The instruction a line of assembler text is, if it is one (R62 to R64). -/
def parseAsm (text : List Char) : Option Instr :=
  match mnemonics.find? (fun m => mnemonicText m == text.take 3), parseOperand (text.drop 3) with
  | some m, some (f, o) => Term.toInstr? ⟨m, f, o⟩
  | _, _ => none

end Sys2Proof.Machine
end

