-- ==== Sys2Proof/Machine/Accesses.lean ====
section
/-! DEFINITION. The memory accesses of an instruction, in order (40_addressing_modes.md R81, and the "Memory accesses" line of each
instruction's rule). They are no part of the state (00_scope.md R7) but a function of the instruction and the state it starts in
(assumption log 11); that they say what `exec` reads and writes is stated in the obligations. -/

namespace Sys2Proof.Machine

/-- One byte access: a read, or a write of a value. -/
inductive Access where
  | read (addr : Word)
  | write (addr : Word) (v : Byte)
deriving DecidableEq, Repr

/-- A pointer is read low byte first, the second address modulo 65536 (R33, R78, R79). -/
def pointerReads (p : Word) : List Access := [.read p, .read (p + 1)]

/-- The accesses of `Exec` of an instruction (R81): none for IMP and IMM, one for the direct formats, three for the indirect ones,
every read before the write. -/
def accesses (i : Instr) (s : State) : List Access :=
  match i with
  | .staIzx b1 => pointerReads (izxPointer b1 s) ++ [.write (izxEA b1 s) s.a]
  | .styZp b1 => [.write (zpEA b1) s.y]
  | .staZp b1 => [.write (zpEA b1) s.a]
  | .stxZp b1 => [.write (zpEA b1) s.x]
  | .txa => []
  | .styAbs w => [.write (absEA w) s.y]
  | .staAbs w => [.write (absEA w) s.a]
  | .stxAbs w => [.write (absEA w) s.x]
  | .staIzy b1 => pointerReads (izyPointer b1) ++ [.write (izyEA b1 s) s.a]
  | .styZpx b1 => [.write (zpxEA b1 s) s.y]
  | .staZpx b1 => [.write (zpxEA b1 s) s.a]
  | .stxZpy b1 => [.write (zpyEA b1 s) s.x]
  | .tya => []
  | .staAby w => [.write (abyEA w s) s.a]
  | .txs => []
  | .staAbx w => [.write (abxEA w s) s.a]
  | .ldyImm _ => []
  | .ldaIzx b1 => pointerReads (izxPointer b1 s) ++ [.read (izxEA b1 s)]
  | .ldxImm _ => []
  | .ldyZp b1 => [.read (zpEA b1)]
  | .ldaZp b1 => [.read (zpEA b1)]
  | .ldxZp b1 => [.read (zpEA b1)]
  | .tay => []
  | .ldaImm _ => []
  | .tax => []
  | .ldyAbs w => [.read (absEA w)]
  | .ldaAbs w => [.read (absEA w)]
  | .ldxAbs w => [.read (absEA w)]
  | .ldaIzy b1 => pointerReads (izyPointer b1) ++ [.read (izyEA b1 s)]
  | .ldyZpx b1 => [.read (zpxEA b1 s)]
  | .ldaZpx b1 => [.read (zpxEA b1 s)]
  | .ldxZpy b1 => [.read (zpyEA b1 s)]
  | .ldaAby w => [.read (abyEA w s)]
  | .tsx => []
  | .ldyAbx w => [.read (abxEA w s)]
  | .ldaAbx w => [.read (abxEA w s)]
  | .ldxAby w => [.read (abyEA w s)]

/-- The reads of one fetch: the instruction's own bytes from PC up, or the opcode byte alone where it is undefined (R58, R59). -/
def fetchAccesses (s : State) : List Access :=
  match opcodeLength (fetchOpcode s) with
  | some 2 => [.read s.pc, .read (s.pc + 1)]
  | some 3 => [.read s.pc, .read (s.pc + 1), .read (s.pc + 2)]
  | _ => [.read s.pc]

/-- The accesses of one step: all the instruction's bytes, then those of `Exec` (R46, R59). -/
def stepAccesses (s : State) : List Access :=
  match fetch s with
  | .ok i => fetchAccesses s ++ accesses i (advancePC (instrLength i) s)
  | .error _ => fetchAccesses s

end Sys2Proof.Machine
end

