-- ==== Sys2Proof/Machine/Launch.lean ====
section
/-! DEFINITION. The host's side (10_state.md R22): get and set of every register and flag, the memory primitives on a state, and
the launch state the host builds from them before a run (00_scope.md R9; 70_reset_and_hazards.md R180, R183). These are not moves
of a run: `step` uses none of them (R22; assumption log 9). -/

namespace Sys2Proof.Machine

/-- The registers with accessors (R22). -/
inductive RegName where
  | a | x | y | sp | pc
deriving DecidableEq, Repr

/-- The flags with accessors (R16, R22). -/
inductive FlagName where
  | c | z | i | d | b | v | n
deriving DecidableEq, Repr

/-- The width of a register in bits (R5). -/
def regWidth : RegName → Nat
  | .pc => 16
  | _ => 8

/-- `get<Reg>()` (R22). -/
def getReg (r : RegName) (s : State) : Nat :=
  match r with
  | .a => s.a.toNat
  | .x => s.x.toNat
  | .y => s.y.toNat
  | .sp => s.sp.toNat
  | .pc => s.pc.toNat

/-- `set<Reg>(value)`: the named register only, the value reduced modulo its width; N and Z are not touched (R14, R22). -/
def setReg (r : RegName) (value : Nat) (s : State) : State :=
  match r with
  | .a => s.writeA (BitVec.ofNat 8 value)
  | .x => s.writeX (BitVec.ofNat 8 value)
  | .y => s.writeY (BitVec.ofNat 8 value)
  | .sp => s.writeSP (BitVec.ofNat 8 value)
  | .pc => s.writePC (BitVec.ofNat 16 value)

/-- The getter of a flag, 1 or 0 (R22). -/
def getFlag (f : FlagName) (s : State) : Nat :=
  match f with
  | .c => s.flagC.toNat
  | .z => s.flagZ.toNat
  | .i => s.flagI.toNat
  | .d => s.flagD.toNat
  | .b => s.flagB.toNat
  | .v => s.flagV.toNat
  | .n => s.flagN.toNat

/-- A number as the one bit of a flag: reduced modulo 2 (R14; assumption log 7). -/
def bitOf (value : Nat) : Bool := value % 2 == 1

/-- The setter of a flag: the named flag only (R22). -/
def setFlag (f : FlagName) (value : Nat) (s : State) : State :=
  match f with
  | .c => { s with flagC := bitOf value }
  | .z => { s with flagZ := bitOf value }
  | .i => { s with flagI := bitOf value }
  | .d => { s with flagD := bitOf value }
  | .b => { s with flagB := bitOf value }
  | .v => { s with flagV := bitOf value }
  | .n => { s with flagN := bitOf value }

/-- The host stores a byte of an image (R22, R34). -/
def preload (addr value : Nat) (s : State) : State := s.writeMem (s.mem.writeByte addr value).2

/-- What the host supplies at launch: the bytes it writes, in order, and every register and flag, each a free input (R9, R25,
R180, R181). -/
structure Launch where
  image : List (Nat × Nat)
  a  : Nat
  x  : Nat
  y  : Nat
  sp : Nat
  pc : Nat
  flagC : Nat
  flagZ : Nat
  flagI : Nat
  flagD : Nat
  flagB : Nat
  flagV : Nat
  flagN : Nat
deriving DecidableEq, Repr

/-- The bytes of an image written in order. -/
def preloadAll : List (Nat × Nat) → State → State
  | [], s => s
  | (addr, value) :: rest, s => preloadAll rest (preload addr value s)

/-- The registers and flags set, each through its accessor. -/
def setAll (l : Launch) (s : State) : State :=
  setFlag .n l.flagN (setFlag .v l.flagV (setFlag .b l.flagB (setFlag .d l.flagD (setFlag .i l.flagI (setFlag .z l.flagZ
    (setFlag .c l.flagC (setReg .pc l.pc (setReg .sp l.sp (setReg .y l.y (setReg .x l.x (setReg .a l.a s)))))))))))

/-- The launch state: memory all zero, then the image, then the registers and flags (R180). -/
def Launch.state (l : Launch) : State := setAll l (preloadAll l.image State.reset)

end Sys2Proof.Machine
end

