-- ==== Sys2Proof/Safety.lean ====
section
/-! DEFINITION. The terms claims are made in: the invariant of the machine, how a run ends (70_reset_and_hazards.md R187), and when
two states agree on the register file. -/

namespace Sys2Proof.Machine

/-- The invariant of every step: memory is in its canonical form. It rules out states no launch builds (assumption log 6). -/
def CanonicalMemory (s : State) : Prop := s.mem.wf = true

/-- A run ends by count: after exactly `n` steps from `s` the state is `t` (R187 a). -/
def CompletesIn (n : Nat) (s t : State) : Prop := Sys2Proof.core.run n s = .next t

/-- A run ends by refusal after exactly `n` steps: it reaches `t` in `n` steps, and the step from `t` is refused. `t` is no final
state about which success may be claimed (R187 b). -/
def RefusedAfter (n : Nat) (s t : State) : Prop := CompletesIn n s t ∧ ∃ r, step t = .refused r

/-- The two states have the same registers and the same flags; their memories may differ. -/
def SameRegisterFile (s t : State) : Prop :=
  s.a = t.a ∧ s.x = t.x ∧ s.y = t.y ∧ s.sp = t.sp ∧ s.pc = t.pc ∧ s.flagC = t.flagC ∧ s.flagZ = t.flagZ ∧
    s.flagI = t.flagI ∧ s.flagD = t.flagD ∧ s.flagB = t.flagB ∧ s.flagV = t.flagV ∧ s.flagN = t.flagN

/-- The two memories hold the same byte at every address of the list that is read. -/
def SameBytesRead (acc : List Access) (m n : Memory) : Prop :=
  ∀ addr, Access.read addr ∈ acc → m.readByte addr.toNat = n.readByte addr.toNat

end Sys2Proof.Machine
end

