-- ==== Sys2Proof/Certificates/Slice0/Obligations.lean ====
section
/-! DEFINITION. The statements for the provers. Each formalises rules of spec/ that its docstring cites; OBLIGATIONS.json lists
them. Addresses of the spec's formulas are written here as numbers, reduced where the spec writes `mod`. -/

open Sys2Proof Sys2Proof.Machine

namespace Sys2Proof.Claims

/-- The operand word `b2:b1` as a number (30_encoding.md R53). -/
def wordAt (b1 b2 : Byte) : Nat := b2.toNat * 256 + b1.toNat

/-- The pointer at `p` as a number: low byte at `p`, high byte at `p + 1` (20_memory.md R33; 40_addressing_modes.md R78, R79). -/
def pointer (s : State) (p : Nat) : Nat := (s.mem.readByte (p + 1)).toNat * 256 + (s.mem.readByte p).toNat

/-- The instruction is encoded by exactly these bytes, and the decoder reads it from them whatever follows. -/
def EncodedAs (i : Instr) (bytes : List Byte) : Prop :=
  encode i = bytes ∧ ∀ rest, decode (bytes ++ rest) = .ok (i, rest)

/-- Reads at these addresses, in this order. -/
def readsAt (addrs : List Nat) : List Access := addrs.map (fun a => .read (BitVec.ofNat 16 a))

/-- The instruction has these bytes, completes with the state `t`, and makes these reads and no other access. -/
def RunsTo (i : Instr) (bytes : List Byte) (reads : List Nat) (s t : State) : Prop :=
  EncodedAs i bytes ∧ exec i s = .next t ∧ accesses i s = readsAt reads

/-- The instruction has these bytes and completes; it makes these reads and then writes `v` at `ea`; that byte then reads `v`,
every other byte reads as before, and nothing but memory has changed. -/
def StoresTo (i : Instr) (bytes : List Byte) (reads : List Nat) (ea : Word) (v : Byte) (s : State) : Prop :=
  EncodedAs i bytes ∧ accesses i s = readsAt reads ++ [.write ea v] ∧
    ∃ t, exec i s = .next t ∧ t = { s with mem := t.mem } ∧ t.mem.readByte ea.toNat = v ∧
      ∀ addr, addr % 65536 ≠ ea.toNat → t.mem.readByte addr = s.mem.readByte addr

/-- A written, N and Z from the value, everything else as it was (41_loads.md R100). -/
def loadedA (v : Byte) (s : State) : State := { s with a := v, flagN := v.getLsbD 7, flagZ := decide (v = 0) }

/-- X written, N and Z from the value, everything else as it was. -/
def loadedX (v : Byte) (s : State) : State := { s with x := v, flagN := v.getLsbD 7, flagZ := decide (v = 0) }

/-- Y written, N and Z from the value, everything else as it was. -/
def loadedY (v : Byte) (s : State) : State := { s with y := v, flagN := v.getLsbD 7, flagZ := decide (v = 0) }

/-- SP written, N and Z from the value, everything else as it was. -/
def loadedSP (v : Byte) (s : State) : State := { s with sp := v, flagN := v.getLsbD 7, flagZ := decide (v = 0) }

/-- The byte values of 30_encoding.md R58 that select no operation, as R58 lists them. -/
def undefinedByte (n : Nat) : Bool :=
  n ≤ 0x80 || [0x82, 0x83, 0x87, 0x88, 0x89, 0x8B, 0x8F, 0x90, 0x92, 0x93, 0x97, 0x9B, 0x9C, 0x9E, 0x9F, 0xA3, 0xA7, 0xAB,
    0xAF, 0xB0, 0xB2, 0xB3, 0xB7, 0xB8, 0xBB, 0xBF].contains n || 0xC0 ≤ n

/-- The mnemonics that write N and Z (10_state.md R17). -/
def writesNZ : List Mnemonic := [.lda, .ldx, .ldy, .tax, .tay, .txa, .tya, .txs]

/-- The loads. -/
def loads : List Mnemonic := [.lda, .ldx, .ldy]

/-- The stores. -/
def stores : List Mnemonic := [.sta, .stx, .sty]

/-- The value of the register a mnemonic writes, after it (10_state.md R26). -/
def written (m : Mnemonic) (t : State) : Option Byte :=
  match m with
  | .lda => some t.a
  | .txa => some t.a
  | .tya => some t.a
  | .ldx => some t.x
  | .tax => some t.x
  | .tsx => some t.x
  | .ldy => some t.y
  | .tay => some t.y
  | .txs => some t.sp
  | .sta => none
  | .stx => none
  | .sty => none

/-- The table of R26, column "Reads", for A: a data source of STA, TAX and TAY. -/
def readsA (i : Instr) : Prop := i.mnemonic ∈ [Mnemonic.sta, .tax, .tay]

/-- R26, "Reads", for X: a data source of STX, TXA and TXS, and the index of the formats named for it. -/
def readsX (i : Instr) : Prop := i.mnemonic ∈ [Mnemonic.stx, .txa, .txs] ∨ i.format ∈ [Format.zpx, .abx, .izx]

/-- R26, "Reads", for Y: a data source of STY and TYA, and the index of the formats named for it. -/
def readsY (i : Instr) : Prop := i.mnemonic ∈ [Mnemonic.sty, .tya] ∨ i.format ∈ [Format.zpy, .aby, .izy]

/-- R26, "Writes", for A. -/
def writesA (i : Instr) : Prop := i.mnemonic ∈ [Mnemonic.lda, .txa, .tya]

/-- R26, "Writes", for X. -/
def writesX (i : Instr) : Prop := i.mnemonic ∈ [Mnemonic.ldx, .tax, .tsx]

/-- R26, "Writes", for Y. -/
def writesY (i : Instr) : Prop := i.mnemonic ∈ [Mnemonic.ldy, .tay]

/-- How many memory accesses a format makes (40_addressing_modes.md R81). -/
def accessCount : Format → Nat
  | .imp => 0
  | .imm => 0
  | .izx => 3
  | .izy => 3
  | _ => 1

/-- The store and the load of one register through one mode and operand, and the address they share (95_test_vectors.md Q9). -/
def Paired (i j : Instr) (s : State) (ea : Word) (v : Byte) : Prop :=
  ∃ reads, accesses i s = reads ++ [.write ea v] ∧ accesses j s = reads ++ [.read ea] ∧ i.format = j.format ∧
    i.toTerm.operand = j.toTerm.operand ∧ ((i.mnemonic = .sta ∧ j.mnemonic = .lda) ∨ (i.mnemonic = .stx ∧ j.mnemonic = .ldx) ∨
      (i.mnemonic = .sty ∧ j.mnemonic = .ldy)) ∧ Access.read ea ∉ reads

end Sys2Proof.Claims

open Sys2Proof.Claims

/-! ## Encoding -/

/-- Decoding the encoding of any instruction, whatever follows, gives the instruction and what follows (30_encoding.md R51, R53,
R56). -/
def Obligations.DecodeOfEncodeIsIdentity : Prop :=
  ∀ (i : Instr) (rest : List Byte), decode (encode i ++ rest) = .ok (i, rest)

/-- Bytes that decode to an instruction are its encoding and what follows: no two encodings of one instruction (R52, R56). -/
def Obligations.DecodedBytesAreTheEncoding : Prop :=
  ∀ (bs rest : List Byte) (i : Instr), decode bs = .ok (i, rest) → bs = encode i ++ rest

/-- The example bytes of R62 decode to the instructions it prints beside them. -/
def Obligations.SampleWordsDecode : Prop :=
  decode [0xAA] = .ok (.tax, []) ∧ decode [0xA9, 0x80] = .ok (.ldaImm 0x80, []) ∧
    decode [0xA5, 0x10] = .ok (.ldaZp 0x10, []) ∧ decode [0xB5, 0x0B] = .ok (.ldaZpx 0x0B, []) ∧
    decode [0xB6, 0x10] = .ok (.ldxZpy 0x10, []) ∧ decode [0xAD, 0x34, 0x12] = .ok (.ldaAbs 0x1234, []) ∧
    decode [0xBD, 0xFF, 0xFF] = .ok (.ldaAbx 0xFFFF, []) ∧ decode [0xB9, 0x34, 0x12] = .ok (.ldaAby 0x1234, []) ∧
    decode [0xA1, 0x20] = .ok (.ldaIzx 0x20, []) ∧ decode [0xB1, 0x20] = .ok (.ldaIzy 0x20, [])

/-- An instruction is 1, 2 or 3 bytes long, and its opcode byte alone fixes the length (R51). -/
def Obligations.OpcodeByteFixesTheLength : Prop :=
  ∀ i : Instr, ∃ opc tail, encode i = opc :: tail ∧ opcodeLength opc = some (encode i).length ∧
    ((encode i).length = 1 ∨ (encode i).length = 2 ∨ (encode i).length = 3)

/-- A term is an instruction exactly when its pair is a row of the map and its operand fits the format; and the check says so
(R64). -/
def Obligations.TermIsInstructionWhenRowAndOperandFit : Prop :=
  ∀ t : Term,
    ((∃ i : Instr, i.toTerm = t) ↔
      (∃ r ∈ opcodeTable, r.mnemonic = t.mnemonic ∧ r.format = t.format) ∧
        ((t.format = .imp ∧ t.operand = .none) ∨
          (t.format ∈ [Format.imm, .zp, .zpx, .zpy, .izx, .izy] ∧ ∃ b1, b1 ≤ 0xFF ∧ t.operand = .byte b1) ∨
          (t.format ∈ [Format.abs, .abx, .aby] ∧ ∃ w, w ≤ 0xFFFF ∧ t.operand = .word w))) ∧
    (t.wf = true ↔ ∃ i : Instr, i.toTerm = t) ∧ (∀ i : Instr, t.toInstr? = some i ↔ i.toTerm = t)

/-- The assembler text of an instruction reads back as that instruction, so the text identifies it (R62). -/
def Obligations.AssemblerTextReadsBack : Prop :=
  ∀ i : Instr, parseAsm (asmText i) = some i

/-! ## Memory -/

/-- Every primitive reduces its address modulo 65536 (20_memory.md R31). -/
def Obligations.AddressesAreReducedModuloMemorySize : Prop :=
  ∀ (m : Memory) (addr v : Nat), m.readByte addr = m.readByte (addr % 65536) ∧ m.readWord addr = m.readWord (addr % 65536) ∧
    m.writeByte addr v = m.writeByte (addr % 65536) v ∧ m.writeWord addr v = m.writeWord (addr % 65536) v

/-- A word is read low byte first, the high byte's address wrapping on its own (R33). -/
def Obligations.WordReadIsLittleEndianAndWraps : Prop :=
  ∀ (m : Memory) (addr : Nat),
    (m.readWord addr).toNat = (m.readByte ((addr + 1) % 65536)).toNat * 256 + (m.readByte (addr % 65536)).toNat ∧
      (addr % 65536 = 0xFFFF → (m.readWord addr).toNat = (m.readByte 0x0000).toNat * 256 + (m.readByte 0xFFFF).toNat)

/-- A byte write stores `v mod 256` at `addr mod 65536`, returns it, and leaves every other byte (R34). -/
def Obligations.ByteWriteStoresOneByte : Prop :=
  ∀ (m : Memory) (addr v b : Nat), (m.writeByte addr v).1.toNat = v % 256 ∧
    ((m.writeByte addr v).2.readByte addr).toNat = v % 256 ∧
    (b % 65536 ≠ addr % 65536 → (m.writeByte addr v).2.readByte b = m.readByte b)

/-- A word write stores the low byte at `addr` and the high byte at `addr + 1`, both modulo 65536, returns the value, and leaves
every other byte (R35). That a value wider than 16 bits is reduced is log 8's. -/
def Obligations.WordWriteStoresTwoBytes : Prop :=
  ∀ (m : Memory) (addr v b : Nat), v ≤ 0xFFFF → (m.writeWord addr v).1.toNat = v ∧
    ((m.writeWord addr v).2.readByte addr).toNat = v % 256 ∧
    ((m.writeWord addr v).2.readByte (addr + 1)).toNat = v / 256 ∧
    (addr % 65536 = 0xFFFF → ((m.writeWord addr v).2.readByte 0x0000).toNat = v / 256) ∧
    (b % 65536 ≠ addr % 65536 → b % 65536 ≠ (addr + 1) % 65536 → (m.writeWord addr v).2.readByte b = m.readByte b)

/-- The laws of R37: a byte, a word and the two bytes of a word read back after they are written. -/
def Obligations.ReadsReturnWhatWasWritten : Prop :=
  (∀ (m : Memory) (a v : Nat), ((m.writeByte a v).2.readByte a).toNat = v % 256) ∧
    ∀ (m : Memory) (a : Nat) (v : Word), (m.writeWord a v.toNat).2.readWord a = v ∧
      ((m.writeWord a v.toNat).2.readByte a).toNat = v.toNat &&& 0xFF ∧
      ((m.writeWord a v.toNat).2.readByte ((a + 1) % 65536)).toNat = (v.toNat >>> 8) &&& 0xFF

/-- Memories in the canonical form that read the same at every address are the same data (assumption log 6). -/
def Obligations.CanonicalMemoriesThatReadAlikeAreEqual : Prop :=
  ∀ m n : Memory, m.wf = true → n.wf = true → (∀ addr < 65536, m.readByte addr = n.readByte addr) → m = n

/-! ## Operand addresses and flags -/

/-- The effective address of every format, and its range (40_addressing_modes.md R72 to R79, R84). -/
def Obligations.EffectiveAddressesAreTheSpecsSums : Prop :=
  ∀ (s : State) (b1 : Byte) (w : Word),
    (zpEA b1).toNat = b1.toNat ∧
    (zpxEA b1 s).toNat = (b1.toNat + s.x.toNat) % 256 ∧
    (zpyEA b1 s).toNat = (b1.toNat + s.y.toNat) % 256 ∧
    (absEA w).toNat = w.toNat ∧
    (abxEA w s).toNat = (w.toNat + s.x.toNat) % 65536 ∧
    (abyEA w s).toNat = (w.toNat + s.y.toNat) % 65536 ∧
    (izxEA b1 s).toNat = pointer s ((b1.toNat + s.x.toNat) % 256) ∧
    (izyEA b1 s).toNat = (pointer s b1.toNat + s.y.toNat) % 65536 ∧
    (zpEA b1).toNat ≤ 0xFF ∧ (zpxEA b1 s).toNat ≤ 0xFF ∧ (zpyEA b1 s).toNat ≤ 0xFF ∧
    (izxPointer b1 s).toNat ≤ 0xFF ∧ (izxPointer b1 s + 1).toNat ≤ 0x100 ∧
    (izyPointer b1).toNat ≤ 0xFF ∧ (izyPointer b1 + 1).toNat ≤ 0x100

/-- `checkNegative` tests the top bit of the result's own width and writes N alone; `checkZero` writes Z alone (10_state.md R23,
R24). -/
def Obligations.FlagHelpersTestTheResultAtItsWidth : Prop :=
  ∀ (k : Nat) (r : BitVec (k + 1)) (s : State),
    checkNegative r s = { s with flagN := decide (2 ^ k ≤ r.toNat) } ∧ checkZero r s = { s with flagZ := decide (r.toNat = 0) }

/-- `checkZero` writes Z from the value being 0; `SetNZ` is the two helpers, in either order; its outcomes over an 8-bit value, which
never set both flags; nothing else is written (R24). -/
def Obligations.SetNZHasThreeOutcomes : Prop :=
  ∀ (v : Byte) (s : State),
    checkZero v s = { s with flagZ := decide (v.toNat = 0) } ∧
    setNZ v s = checkZero v (checkNegative v s) ∧ setNZ v s = checkNegative v (checkZero v s) ∧
    (v.toNat = 0x00 → setNZ v s = { s with flagN := false, flagZ := true }) ∧
    (0x01 ≤ v.toNat → v.toNat ≤ 0x7F → setNZ v s = { s with flagN := false, flagZ := false }) ∧
    (0x80 ≤ v.toNat → setNZ v s = { s with flagN := true, flagZ := false }) ∧
    ¬ ((setNZ v s).flagN = true ∧ (setNZ v s).flagZ = true)

/-! ## What each instruction does -/

/-- LDA in its eight modes: bytes, result, flags, reads, and everything else unchanged (41_loads.md R101 to R108). -/
def Obligations.LoadAccumulatorInEveryMode : Prop :=
  ∀ (s : State) (b1 b2 : Byte),
    RunsTo (.ldaImm b1) [0xA9, b1] [] s (loadedA b1 s) ∧
    RunsTo (.ldaZp b1) [0xA5, b1] [b1.toNat] s (loadedA (s.mem.readByte b1.toNat) s) ∧
    RunsTo (.ldaZpx b1) [0xB5, b1] [(b1.toNat + s.x.toNat) % 256] s
      (loadedA (s.mem.readByte ((b1.toNat + s.x.toNat) % 256)) s) ∧
    RunsTo (.ldaAbs (b2 ++ b1)) [0xAD, b1, b2] [wordAt b1 b2] s (loadedA (s.mem.readByte (wordAt b1 b2)) s) ∧
    RunsTo (.ldaAbx (b2 ++ b1)) [0xBD, b1, b2] [(wordAt b1 b2 + s.x.toNat) % 65536] s
      (loadedA (s.mem.readByte ((wordAt b1 b2 + s.x.toNat) % 65536)) s) ∧
    RunsTo (.ldaAby (b2 ++ b1)) [0xB9, b1, b2] [(wordAt b1 b2 + s.y.toNat) % 65536] s
      (loadedA (s.mem.readByte ((wordAt b1 b2 + s.y.toNat) % 65536)) s) ∧
    RunsTo (.ldaIzx b1) [0xA1, b1]
      [(b1.toNat + s.x.toNat) % 256, (b1.toNat + s.x.toNat) % 256 + 1, pointer s ((b1.toNat + s.x.toNat) % 256)] s
      (loadedA (s.mem.readByte (pointer s ((b1.toNat + s.x.toNat) % 256))) s) ∧
    RunsTo (.ldaIzy b1) [0xB1, b1] [b1.toNat, b1.toNat + 1, (pointer s b1.toNat + s.y.toNat) % 65536] s
      (loadedA (s.mem.readByte ((pointer s b1.toNat + s.y.toNat) % 65536)) s)

/-- LDX in its five modes (R109 to R113). -/
def Obligations.LoadXInEveryMode : Prop :=
  ∀ (s : State) (b1 b2 : Byte),
    RunsTo (.ldxImm b1) [0xA2, b1] [] s (loadedX b1 s) ∧
    RunsTo (.ldxZp b1) [0xA6, b1] [b1.toNat] s (loadedX (s.mem.readByte b1.toNat) s) ∧
    RunsTo (.ldxZpy b1) [0xB6, b1] [(b1.toNat + s.y.toNat) % 256] s
      (loadedX (s.mem.readByte ((b1.toNat + s.y.toNat) % 256)) s) ∧
    RunsTo (.ldxAbs (b2 ++ b1)) [0xAE, b1, b2] [wordAt b1 b2] s (loadedX (s.mem.readByte (wordAt b1 b2)) s) ∧
    RunsTo (.ldxAby (b2 ++ b1)) [0xBE, b1, b2] [(wordAt b1 b2 + s.y.toNat) % 65536] s
      (loadedX (s.mem.readByte ((wordAt b1 b2 + s.y.toNat) % 65536)) s)

/-- LDY in its five modes (R114 to R118). -/
def Obligations.LoadYInEveryMode : Prop :=
  ∀ (s : State) (b1 b2 : Byte),
    RunsTo (.ldyImm b1) [0xA0, b1] [] s (loadedY b1 s) ∧
    RunsTo (.ldyZp b1) [0xA4, b1] [b1.toNat] s (loadedY (s.mem.readByte b1.toNat) s) ∧
    RunsTo (.ldyZpx b1) [0xB4, b1] [(b1.toNat + s.x.toNat) % 256] s
      (loadedY (s.mem.readByte ((b1.toNat + s.x.toNat) % 256)) s) ∧
    RunsTo (.ldyAbs (b2 ++ b1)) [0xAC, b1, b2] [wordAt b1 b2] s (loadedY (s.mem.readByte (wordAt b1 b2)) s) ∧
    RunsTo (.ldyAbx (b2 ++ b1)) [0xBC, b1, b2] [(wordAt b1 b2 + s.x.toNat) % 65536] s
      (loadedY (s.mem.readByte ((wordAt b1 b2 + s.x.toNat) % 65536)) s)

/-- STA in its seven modes: bytes, the address stored to, the byte stored there, every other byte, register and flag unchanged, the
accesses (42_stores.md R131 to R137). -/
def Obligations.StoreAccumulatorInEveryMode : Prop :=
  ∀ (s : State) (b1 b2 : Byte),
    ((zpEA b1).toNat = b1.toNat ∧ StoresTo (.staZp b1) [0x85, b1] [] (zpEA b1) s.a s) ∧
    ((zpxEA b1 s).toNat = (b1.toNat + s.x.toNat) % 256 ∧ StoresTo (.staZpx b1) [0x95, b1] [] (zpxEA b1 s) s.a s) ∧
    ((absEA (b2 ++ b1)).toNat = wordAt b1 b2 ∧ StoresTo (.staAbs (b2 ++ b1)) [0x8D, b1, b2] [] (absEA (b2 ++ b1)) s.a s) ∧
    ((abxEA (b2 ++ b1) s).toNat = (wordAt b1 b2 + s.x.toNat) % 65536 ∧
      StoresTo (.staAbx (b2 ++ b1)) [0x9D, b1, b2] [] (abxEA (b2 ++ b1) s) s.a s) ∧
    ((abyEA (b2 ++ b1) s).toNat = (wordAt b1 b2 + s.y.toNat) % 65536 ∧
      StoresTo (.staAby (b2 ++ b1)) [0x99, b1, b2] [] (abyEA (b2 ++ b1) s) s.a s) ∧
    ((izxEA b1 s).toNat = pointer s ((b1.toNat + s.x.toNat) % 256) ∧
      StoresTo (.staIzx b1) [0x81, b1] [(b1.toNat + s.x.toNat) % 256, (b1.toNat + s.x.toNat) % 256 + 1] (izxEA b1 s) s.a s) ∧
    ((izyEA b1 s).toNat = (pointer s b1.toNat + s.y.toNat) % 65536 ∧
      StoresTo (.staIzy b1) [0x91, b1] [b1.toNat, b1.toNat + 1] (izyEA b1 s) s.a s)

/-- STX in its three modes (R138 to R140). -/
def Obligations.StoreXInEveryMode : Prop :=
  ∀ (s : State) (b1 b2 : Byte),
    ((zpEA b1).toNat = b1.toNat ∧ StoresTo (.stxZp b1) [0x86, b1] [] (zpEA b1) s.x s) ∧
    ((zpyEA b1 s).toNat = (b1.toNat + s.y.toNat) % 256 ∧ StoresTo (.stxZpy b1) [0x96, b1] [] (zpyEA b1 s) s.x s) ∧
    ((absEA (b2 ++ b1)).toNat = wordAt b1 b2 ∧ StoresTo (.stxAbs (b2 ++ b1)) [0x8E, b1, b2] [] (absEA (b2 ++ b1)) s.x s)

/-- STY in its three modes (R141 to R143). -/
def Obligations.StoreYInEveryMode : Prop :=
  ∀ (s : State) (b1 b2 : Byte),
    ((zpEA b1).toNat = b1.toNat ∧ StoresTo (.styZp b1) [0x84, b1] [] (zpEA b1) s.y s) ∧
    ((zpxEA b1 s).toNat = (b1.toNat + s.x.toNat) % 256 ∧ StoresTo (.styZpx b1) [0x94, b1] [] (zpxEA b1 s) s.y s) ∧
    ((absEA (b2 ++ b1)).toNat = wordAt b1 b2 ∧ StoresTo (.styAbs (b2 ++ b1)) [0x8C, b1, b2] [] (absEA (b2 ++ b1)) s.y s)

/-- TAX, TAY, TXA and TYA copy the source, write N and Z from the value, and change nothing else (43_transfers.md R151 to
R154). -/
def Obligations.TransfersCopyAndSetNZ : Prop :=
  ∀ s : State,
    RunsTo .tax [0xAA] [] s (loadedX s.a s) ∧ RunsTo .tay [0xA8] [] s (loadedY s.a s) ∧
    RunsTo .txa [0x8A] [] s (loadedA s.x s) ∧ RunsTo .tya [0x98] [] s (loadedA s.y s)

/-- TSX copies SP to X and writes no flag (R155). -/
def Obligations.TsxCopiesSPAndWritesNoFlag : Prop :=
  ∀ s : State, RunsTo .tsx [0xBA] [] s { s with x := s.sp }

/-- TXS copies X to SP and writes N and Z from the value (R156). -/
def Obligations.TxsCopiesXAndSetsNZ : Prop :=
  ∀ s : State, RunsTo .txs [0x9A] [] s (loadedSP s.x s)

/-! ## What every instruction does and leaves -/

/-- Every instruction completes in every state with every operand, and no step faults (60_exceptions.md R160). -/
def Obligations.EveryInstructionCompletes : Prop :=
  (∀ (i : Instr) (s : State), ∃ t, exec i s = .next t) ∧
    ∀ s : State, (∃ t, step s = .next t) ∨ ∃ opc, opcodeLength opc = none ∧ step s = .refused (.undecodable (.undefinedOpcode opc))

/-- N and Z are written, from the value written to the destination register, by every load and every transfer but TSX, by nothing
else; and nothing reads them (10_state.md R17). -/
def Obligations.NAndZAreWrittenByLoadsAndTransfersOnly : Prop :=
  ∀ (i : Instr) (s t : State) (n z : Bool), exec i s = .next t →
    (i.mnemonic ∈ writesNZ → (∃ v, written i.mnemonic t = some v ∧ t.flagN = v.getLsbD 7 ∧ t.flagZ = decide (v = 0)) ∧
      exec i { s with flagN := n, flagZ := z } = .next t) ∧
    (i.mnemonic ∉ writesNZ → t.flagN = s.flagN ∧ t.flagZ = s.flagZ ∧
      exec i { s with flagN := n, flagZ := z } = .next { t with flagN := n, flagZ := z })

/-- C, I, D, B and V are storage: no instruction reads or writes one (10_state.md R18), and the accessors do (R22). That a number
given to a flag's setter is reduced modulo 2 is the model's choice, from R14 which says so of registers (assumption log 7). -/
def Obligations.InertFlagsAreNeitherReadNorWritten : Prop :=
  (∀ (i : Instr) (s t : State) (c f d b v : Bool), exec i s = .next t →
    (t.flagC = s.flagC ∧ t.flagI = s.flagI ∧ t.flagD = s.flagD ∧ t.flagB = s.flagB ∧ t.flagV = s.flagV) ∧
    exec i { s with flagC := c, flagI := f, flagD := d, flagB := b, flagV := v } =
      .next { t with flagC := c, flagI := f, flagD := d, flagB := b, flagV := v }) ∧
  ∀ (f : FlagName) (value : Nat) (s : State), getFlag f (setFlag f value s) = value % 2

/-- SP is read by TSX and written by TXS, and by nothing else; no access depends on it (10_state.md R13). -/
def Obligations.StackPointerIsTouchedByTsxAndTxsOnly : Prop :=
  ∀ (i : Instr) (s t : State) (p : Byte), exec i s = .next t →
    accesses i { s with sp := p } = accesses i s ∧
    (i ≠ .txs → t.sp = s.sp) ∧
    (i ≠ .tsx → i ≠ .txs → exec i { s with sp := p } = .next { t with sp := p }) ∧
    (i = .txs → t.sp = s.x ∧ exec i { s with sp := p } = .next t) ∧
    (i = .tsx → t.x = s.sp)

/-- No instruction reads or writes PC when issued through `Exec` (10_state.md R15; 95_test_vectors.md Q5). -/
def Obligations.ExecNeitherReadsNorWritesPC : Prop :=
  ∀ (i : Instr) (s t : State) (p : Word), exec i s = .next t →
    t.pc = s.pc ∧ exec i { s with pc := p } = .next { t with pc := p } ∧ accesses i { s with pc := p } = accesses i s

/-- The table of register, memory and flag traffic: what each group reads, what it writes, and that it touches nothing else; no
instruction has one register as source or offset and as destination (10_state.md R26). -/
def Obligations.RegisterTrafficIsTheTable : Prop :=
  ∀ (i : Instr) (s t : State) (v : Byte), exec i s = .next t →
    (¬ readsA i → writesA i → exec i { s with a := v } = .next t) ∧
    (¬ readsA i → ¬ writesA i → exec i { s with a := v } = .next { t with a := v }) ∧
    (¬ readsX i → writesX i → exec i { s with x := v } = .next t) ∧
    (¬ readsX i → ¬ writesX i → exec i { s with x := v } = .next { t with x := v }) ∧
    (¬ readsY i → writesY i → exec i { s with y := v } = .next t) ∧
    (¬ readsY i → ¬ writesY i → exec i { s with y := v } = .next { t with y := v }) ∧
    (i = .txs → exec i { s with sp := v } = .next t) ∧
    (i ≠ .tsx → i ≠ .txs → exec i { s with sp := v } = .next { t with sp := v }) ∧
    (¬ writesA i → t.a = s.a) ∧ (¬ writesX i → t.x = s.x) ∧ (¬ writesY i → t.y = s.y) ∧ (i ≠ .txs → t.sp = s.sp) ∧
    (i.mnemonic ∉ stores → ∀ addr, t.mem.readByte addr = s.mem.readByte addr) ∧
    ((∃ addr, Access.read addr ∈ accesses i s) ↔
      (i.mnemonic ∈ loads ∧ i.format ≠ .imm) ∨ i.format = .izx ∨ i.format = .izy) ∧
    ((∃ addr w, Access.write addr w ∈ accesses i s) ↔ i.mnemonic ∈ stores) ∧
    (i.mnemonic ∉ writesNZ → t.flagN = s.flagN ∧ t.flagZ = s.flagZ) ∧
    (t.flagC = s.flagC ∧ t.flagI = s.flagI ∧ t.flagD = s.flagD ∧ t.flagB = s.flagB ∧ t.flagV = s.flagV ∧ t.pc = s.pc) ∧
    ¬ (readsA i ∧ writesA i) ∧ ¬ (readsX i ∧ writesX i) ∧ ¬ (readsY i ∧ writesY i)

/-- Accesses of `Exec`: pointer low, pointer high, then the data; every read before the write; their number fixed by the format, at
most three reads and one write (40_addressing_modes.md R81; 95_test_vectors.md Q8). -/
def Obligations.AccessesComeInTheSpecsOrder : Prop :=
  ∀ (i : Instr) (s : State),
    (accesses i s).length = accessCount i.format ∧
    (∃ (reads : List Word) (writes : List (Word × Byte)),
      accesses i s = reads.map Access.read ++ writes.map (fun w => .write w.1 w.2) ∧ reads.length ≤ 3 ∧ writes.length ≤ 1) ∧
    (i.format = .izx ∨ i.format = .izy → ∃ p data, accesses i s = [.read p, .read (p + 1), data] ∧ p.toNat ≤ 0xFF) ∧
    (i.mnemonic ∈ loads → i.format ≠ .imm → ∃ before ea, accesses i s = before ++ [.read ea]) ∧
    (i.mnemonic ∈ stores → ∃ before ea v, accesses i s = before ++ [.write ea v])

/-- The accesses listed for a step are all it depends on in memory: two states with one register file, and the same bytes at the
addresses read, step alike, and their memories stay alike wherever they were (00_scope.md R7; 10_state.md R21; R81). -/
def Obligations.StepDependsOnlyOnRegistersAndBytesRead : Prop :=
  ∀ s₁ s₂ t₁ : State, SameRegisterFile s₁ s₂ → SameBytesRead (stepAccesses s₁) s₁.mem s₂.mem → step s₁ = .next t₁ →
    ∃ t₂, step s₂ = .next t₂ ∧ SameRegisterFile t₁ t₂ ∧ stepAccesses s₂ = stepAccesses s₁ ∧
      ∀ addr, s₁.mem.readByte addr = s₂.mem.readByte addr → t₁.mem.readByte addr = t₂.mem.readByte addr

/-- A step changes memory exactly by the writes listed for it: the byte written then reads as written, every other byte as before
(20_memory.md R36, R43). -/
def Obligations.StepChangesOnlyTheBytesItWrites : Prop :=
  ∀ s t : State, step s = .next t →
    (∀ addr v, Access.write addr v ∈ stepAccesses s → t.mem.readByte addr.toNat = v) ∧
    ∀ addr : Nat, (∀ w v, Access.write w v ∈ stepAccesses s → w.toNat ≠ addr % 65536) →
      t.mem.readByte addr = s.mem.readByte addr

/-- A store followed by the load of the same register through the same mode and operand returns the stored value, with N and Z from
it, where the address is not a byte of its own pointer (95_test_vectors.md Q9). -/
def Obligations.StoreThenLoadReturnsTheStoredByte : Prop :=
  ∀ (i j : Instr) (s t : State) (ea : Word) (v : Byte), Paired i j s ea v → exec i s = .next t →
    ∃ u, exec j t = .next u ∧ written j.mnemonic u = some v ∧ written j.mnemonic s = some v ∧
      u = { t with flagN := v.getLsbD 7, flagZ := decide (v = 0) }

/-! ## The dispatcher -/

/-- When the bytes at PC decode to an instruction, a step is that instruction run with PC moved past its bytes (30_encoding.md
R59). -/
def Obligations.StepRunsTheDecodedInstruction : Prop :=
  ∀ (s : State) (i : Instr) (rest : List Byte),
    decode [s.mem.readByte s.pc.toNat, s.mem.readByte (s.pc.toNat + 1), s.mem.readByte (s.pc.toNat + 2)] = .ok (i, rest) →
      step s = exec i { s with pc := s.pc + BitVec.ofNat 16 (encode i).length }

/-- The reference dispatcher: read the opcode; refuse, or read as many operand bytes as its length says, advance PC, and run the
instruction those bytes encode; the bytes are read before it runs (30_encoding.md R59). -/
def Obligations.StepIsTheReferenceDispatcher : Prop :=
  ∀ s : State,
    (opcodeLength (s.mem.readByte s.pc.toNat) = none →
      step s = .refused (.undecodable (.undefinedOpcode (s.mem.readByte s.pc.toNat)))) ∧
    ∀ len, opcodeLength (s.mem.readByte s.pc.toNat) = some len →
      ∃ i, encode i = [s.mem.readByte s.pc.toNat, s.mem.readByte ((s.pc.toNat + 1) % 65536),
          s.mem.readByte ((s.pc.toNat + 2) % 65536)].take len ∧
        step s = exec i { s with pc := BitVec.ofNat 16 ((s.pc.toNat + len) % 65536) } ∧
        stepAccesses s = ([Access.read s.pc, .read (s.pc + 1), .read (s.pc + 2)].take len) ++
          accesses i { s with pc := BitVec.ofNat 16 ((s.pc.toNat + len) % 65536) }

/-- A step leaves PC at `(p + len) mod 65536`; an instruction may straddle the top of the address space (30_encoding.md R60). -/
def Obligations.StepAdvancesPCByTheLength : Prop :=
  ∀ s t : State, step s = .next t → ∃ len, opcodeLength (s.mem.readByte s.pc.toNat) = some len ∧ 1 ≤ len ∧ len ≤ 3 ∧
    t.pc.toNat = (s.pc.toNat + len) % 65536 ∧
    (s.pc = 0xFFFF → len = 2 → fetchBytes s = [s.mem.readByte 0xFFFF, s.mem.readByte 0x0000] ∧ t.pc = 0x0001) ∧
    (s.pc = 0xFFFE → len = 3 →
      fetchBytes s = [s.mem.readByte 0xFFFE, s.mem.readByte 0xFFFF, s.mem.readByte 0x0000] ∧ t.pc = 0x0001)

/-- At one of the 219 undefined bytes `Step` has no next state and reads nothing beyond the opcode; at any other byte it has one; the
decoder rejects an undefined byte whatever follows it (30_encoding.md R58). A refusal carries no state: what it stopped in stays
as it was (assumption log 5). -/
def Obligations.UndefinedOpcodesAreRefused : Prop :=
  ((List.range 256).filter undefinedByte).length = 219 ∧
    (∀ (opc : Byte) (rest : List Byte), undefinedByte opc.toNat = true → decode (opc :: rest) = .error (.undefinedOpcode opc)) ∧
    ∀ s : State,
      (undefinedByte (s.mem.readByte s.pc.toNat).toNat = true →
        step s = .refused (.undecodable (.undefinedOpcode (s.mem.readByte s.pc.toNat))) ∧ stepAccesses s = [.read s.pc]) ∧
      (undefinedByte (s.mem.readByte s.pc.toNat).toNat = false → ∃ t, step s = .next t)

/-- An instruction placed at PC by `withFetchWord` is the one the next step runs, in any state (assumption logs 4 and 15). -/
def Obligations.PlacedWordIsTheNextInstruction : Prop :=
  ∀ (s : State) (nbits w : Nat) (i : Instr), decodeTableWord nbits w = some i →
    step (s.withFetchWord nbits w) =
      exec i { s.withFetchWord nbits w with pc := s.pc + BitVec.ofNat 16 (encode i).length }

/-! ## Reset, launch and runs -/

/-- Every step keeps memory in its canonical form, from every state that has it (assumption log 6). -/
def Obligations.StepKeepsMemoryCanonical : Prop :=
  ∀ s t : State, CanonicalMemory s → step s = .next t → CanonicalMemory t

/-- Memory is zero at every address after reset (10_state.md R25, 70_reset_and_hazards.md R180), and in its canonical form, which is
the model's (assumption log 6). -/
def Obligations.ResetMemoryIsZeroAndCanonical : Prop :=
  CanonicalMemory State.reset ∧ ∀ addr, State.reset.mem.readByte addr = 0x00

/-- The launch states are exactly the states whose memory is canonical: every value of every register, flag and byte is a start the
model admits (00_scope.md R9; 10_state.md R25; 70_reset_and_hazards.md R181). The canonical form is the model's (assumption
log 6). -/
def Obligations.LaunchStatesAreAllCanonicalStates : Prop :=
  ∀ s : State, CanonicalMemory s ↔ ∃ l : Launch, l.state = s

/-- Launch: every byte zero, then the image's bytes in order, then each register and flag at the value set (70_reset_and_hazards.md
R180, 10_state.md R22), a byte reduced as 20_memory.md R34 says and a register as 10_state.md R14 says. That a flag's number is
reduced modulo 2 is the model's choice (assumption log 7). -/
def Obligations.LaunchIsZeroMemoryThenImageThenRegisters : Prop :=
  ∀ (l : Launch) (addr value b : Nat),
    (l.image = [] → l.state.mem.readByte b = 0x00) ∧
    (Launch.state { l with image := l.image ++ [(addr, value)] }).mem.readByte b =
      (if b % 65536 = addr % 65536 then BitVec.ofNat 8 value else l.state.mem.readByte b) ∧
    getReg .a l.state = l.a % 256 ∧ getReg .x l.state = l.x % 256 ∧ getReg .y l.state = l.y % 256 ∧
    getReg .sp l.state = l.sp % 256 ∧ getReg .pc l.state = l.pc % 65536 ∧
    getFlag .c l.state = l.flagC % 2 ∧ getFlag .z l.state = l.flagZ % 2 ∧ getFlag .i l.state = l.flagI % 2 ∧
    getFlag .d l.state = l.flagD % 2 ∧ getFlag .b l.state = l.flagB % 2 ∧ getFlag .v l.state = l.flagV % 2 ∧
    getFlag .n l.state = l.flagN % 2

/-- A set accessor writes the named item only, reduced modulo its width; the value set is the value got; N and Z do not follow a
register set so (10_state.md R22, R14). That a flag's number is reduced modulo 2 is the model's choice (assumption log 7). -/
def Obligations.SetAccessorsWriteTheNamedItemOnly : Prop :=
  ∀ (s : State) (value : Nat),
    (∀ r : RegName, getReg r (setReg r value s) = value % 2 ^ regWidth r ∧
      (∀ q, q ≠ r → getReg q (setReg r value s) = getReg q s) ∧ (∀ f, getFlag f (setReg r value s) = getFlag f s) ∧
      (setReg r value s).mem = s.mem) ∧
    ∀ f : FlagName, getFlag f (setFlag f value s) = value % 2 ∧
      (∀ g, g ≠ f → getFlag g (setFlag f value s) = getFlag g s) ∧ (∀ r, getReg r (setFlag f value s) = getReg r s) ∧
      (setFlag f value s).mem = s.mem

/-- A run is sequential: after `n` steps PC has moved on by between `n` and `3 n` bytes, modulo 65536, and by nothing else
(30_encoding.md R60, R61; 70_reset_and_hazards.md R188). -/
def Obligations.RunsAdvancePCSequentially : Prop :=
  ∀ (n : Nat) (s t : State), CompletesIn n s t → ∃ k, n ≤ k ∧ k ≤ 3 * n ∧ t.pc.toNat = (s.pc.toNat + k) % 65536

/-- No run changes C, I, D, B or V (10_state.md R18; 60_exceptions.md R170). -/
def Obligations.RunsKeepTheInertFlags : Prop :=
  ∀ (n : Nat) (s t : State), CompletesIn n s t →
    t.flagC = s.flagC ∧ t.flagI = s.flagI ∧ t.flagD = s.flagD ∧ t.flagB = s.flagB ∧ t.flagV = s.flagV
end

