-- ==== Sys2Proof/Laws/Decode.lean ====
section
/-! SUPPORT. The opcode table and the decoder, each said once. -/

namespace Sys2Proof

/-- No two rows share an opcode byte (R56). -/
theorem opcodeTable_opcodes_distinct : (opcodeTable.map (fun r => r.opcode)).Nodup := by decide

theorem opcodeTable_length : opcodeTable.length = 37 := rfl

theorem rowOf_some {opc : Byte} {r : OpcodeRow} (h : rowOf opc = some r) : r ∈ opcodeTable ∧ r.opcode = opc :=
  ⟨List.mem_of_find?_eq_some h, by simpa using List.find?_some h⟩

theorem takeOperands_some {len : Nat} {bs rest : List Byte} {b1 b2 : Byte}
    (h : takeOperands len bs = some (b1, b2, rest)) :
    (len = 1 ∧ b1 = 0x00 ∧ b2 = 0x00 ∧ bs = rest) ∨ (len = 2 ∧ b2 = 0x00 ∧ bs = b1 :: rest) ∨
      (len = 3 ∧ bs = b1 :: b2 :: rest) := by
  unfold takeOperands at h
  split at h
  · simp only [Option.some.injEq, Prod.mk.injEq] at h
    exact .inl ⟨rfl, h.1.symm, h.2.1.symm, h.2.2⟩
  · simp only [Option.some.injEq, Prod.mk.injEq] at h
    obtain ⟨rfl, h2, rfl⟩ := h
    exact .inr (.inl ⟨rfl, h2.symm, rfl⟩)
  · simp only [Option.some.injEq, Prod.mk.injEq] at h
    obtain ⟨rfl, rfl, rfl⟩ := h
    exact .inr (.inr ⟨rfl, rfl⟩)
  · simp at h

/-- When decoding answers an instruction: the first byte's row, its operand bytes, and `assemble`. -/
theorem decode_ok {bs rest : List Byte} {i : Instr} (h : decode bs = .ok (i, rest)) :
    ∃ opc tail r b1 b2, bs = opc :: tail ∧ rowOf opc = some r ∧
      takeOperands (formatLength r.format) tail = some (b1, b2, rest) ∧ assemble r.mnemonic r.format b1 b2 = some i := by
  cases bs with
  | nil => simp [decode] at h
  | cons opc tail =>
    simp only [decode] at h
    split at h
    · simp at h
    · rename_i r hr
      split at h
      · simp at h
      · rename_i b1 b2 rest' ht
        split at h
        · simp at h
        · rename_i i' hi
          simp only [Except.ok.injEq, Prod.mk.injEq] at h
          obtain ⟨rfl, rfl⟩ := h
          exact ⟨opc, tail, r, b1, b2, rfl, hr, ht, hi⟩

/-- Every row of the table is the row of an instruction, whatever its operand bytes are (R56). -/
theorem assemble_row_isSome {r : OpcodeRow} (h : r ∈ opcodeTable) (b1 b2 : Byte) :
    (assemble r.mnemonic r.format b1 b2).isSome = true := by
  have hd : ∀ r ∈ opcodeTable, ∃ f : Byte → Byte → Instr, ∀ b1 b2, assemble r.mnemonic r.format b1 b2 = some (f b1 b2) := by
    simp only [opcodeTable, opcodeRows8, opcodeRowsA, opcodeRowsB, List.cons_append, List.nil_append,
      List.forall_mem_cons, List.not_mem_nil, false_imp_iff, implies_true, and_true]
    and_intros <;> exact ⟨_, fun _ _ => rfl⟩
  obtain ⟨f, hf⟩ := hd r h
  simp [hf]

end Sys2Proof
end

