-- ==== Sys2Proof/Laws/State.lean ====
section
/-! SUPPORT. One lemma for each field after each update of the state, so that no proof unfolds a record update. -/

namespace Sys2Proof.Machine

@[simp] theorem writeA_a (v : Byte) (s : State) : (s.writeA v).a = v := rfl
@[simp] theorem writeA_x (v : Byte) (s : State) : (s.writeA v).x = s.x := rfl
@[simp] theorem writeA_y (v : Byte) (s : State) : (s.writeA v).y = s.y := rfl
@[simp] theorem writeA_sp (v : Byte) (s : State) : (s.writeA v).sp = s.sp := rfl
@[simp] theorem writeA_pc (v : Byte) (s : State) : (s.writeA v).pc = s.pc := rfl
@[simp] theorem writeA_flagC (v : Byte) (s : State) : (s.writeA v).flagC = s.flagC := rfl
@[simp] theorem writeA_flagZ (v : Byte) (s : State) : (s.writeA v).flagZ = s.flagZ := rfl
@[simp] theorem writeA_flagI (v : Byte) (s : State) : (s.writeA v).flagI = s.flagI := rfl
@[simp] theorem writeA_flagD (v : Byte) (s : State) : (s.writeA v).flagD = s.flagD := rfl
@[simp] theorem writeA_flagB (v : Byte) (s : State) : (s.writeA v).flagB = s.flagB := rfl
@[simp] theorem writeA_flagV (v : Byte) (s : State) : (s.writeA v).flagV = s.flagV := rfl
@[simp] theorem writeA_flagN (v : Byte) (s : State) : (s.writeA v).flagN = s.flagN := rfl
@[simp] theorem writeA_mem (v : Byte) (s : State) : (s.writeA v).mem = s.mem := rfl

@[simp] theorem writeX_a (v : Byte) (s : State) : (s.writeX v).a = s.a := rfl
@[simp] theorem writeX_x (v : Byte) (s : State) : (s.writeX v).x = v := rfl
@[simp] theorem writeX_y (v : Byte) (s : State) : (s.writeX v).y = s.y := rfl
@[simp] theorem writeX_sp (v : Byte) (s : State) : (s.writeX v).sp = s.sp := rfl
@[simp] theorem writeX_pc (v : Byte) (s : State) : (s.writeX v).pc = s.pc := rfl
@[simp] theorem writeX_flagC (v : Byte) (s : State) : (s.writeX v).flagC = s.flagC := rfl
@[simp] theorem writeX_flagZ (v : Byte) (s : State) : (s.writeX v).flagZ = s.flagZ := rfl
@[simp] theorem writeX_flagI (v : Byte) (s : State) : (s.writeX v).flagI = s.flagI := rfl
@[simp] theorem writeX_flagD (v : Byte) (s : State) : (s.writeX v).flagD = s.flagD := rfl
@[simp] theorem writeX_flagB (v : Byte) (s : State) : (s.writeX v).flagB = s.flagB := rfl
@[simp] theorem writeX_flagV (v : Byte) (s : State) : (s.writeX v).flagV = s.flagV := rfl
@[simp] theorem writeX_flagN (v : Byte) (s : State) : (s.writeX v).flagN = s.flagN := rfl
@[simp] theorem writeX_mem (v : Byte) (s : State) : (s.writeX v).mem = s.mem := rfl

@[simp] theorem writeY_a (v : Byte) (s : State) : (s.writeY v).a = s.a := rfl
@[simp] theorem writeY_x (v : Byte) (s : State) : (s.writeY v).x = s.x := rfl
@[simp] theorem writeY_y (v : Byte) (s : State) : (s.writeY v).y = v := rfl
@[simp] theorem writeY_sp (v : Byte) (s : State) : (s.writeY v).sp = s.sp := rfl
@[simp] theorem writeY_pc (v : Byte) (s : State) : (s.writeY v).pc = s.pc := rfl
@[simp] theorem writeY_flagC (v : Byte) (s : State) : (s.writeY v).flagC = s.flagC := rfl
@[simp] theorem writeY_flagZ (v : Byte) (s : State) : (s.writeY v).flagZ = s.flagZ := rfl
@[simp] theorem writeY_flagI (v : Byte) (s : State) : (s.writeY v).flagI = s.flagI := rfl
@[simp] theorem writeY_flagD (v : Byte) (s : State) : (s.writeY v).flagD = s.flagD := rfl
@[simp] theorem writeY_flagB (v : Byte) (s : State) : (s.writeY v).flagB = s.flagB := rfl
@[simp] theorem writeY_flagV (v : Byte) (s : State) : (s.writeY v).flagV = s.flagV := rfl
@[simp] theorem writeY_flagN (v : Byte) (s : State) : (s.writeY v).flagN = s.flagN := rfl
@[simp] theorem writeY_mem (v : Byte) (s : State) : (s.writeY v).mem = s.mem := rfl

@[simp] theorem writeSP_a (v : Byte) (s : State) : (s.writeSP v).a = s.a := rfl
@[simp] theorem writeSP_x (v : Byte) (s : State) : (s.writeSP v).x = s.x := rfl
@[simp] theorem writeSP_y (v : Byte) (s : State) : (s.writeSP v).y = s.y := rfl
@[simp] theorem writeSP_sp (v : Byte) (s : State) : (s.writeSP v).sp = v := rfl
@[simp] theorem writeSP_pc (v : Byte) (s : State) : (s.writeSP v).pc = s.pc := rfl
@[simp] theorem writeSP_flagC (v : Byte) (s : State) : (s.writeSP v).flagC = s.flagC := rfl
@[simp] theorem writeSP_flagZ (v : Byte) (s : State) : (s.writeSP v).flagZ = s.flagZ := rfl
@[simp] theorem writeSP_flagI (v : Byte) (s : State) : (s.writeSP v).flagI = s.flagI := rfl
@[simp] theorem writeSP_flagD (v : Byte) (s : State) : (s.writeSP v).flagD = s.flagD := rfl
@[simp] theorem writeSP_flagB (v : Byte) (s : State) : (s.writeSP v).flagB = s.flagB := rfl
@[simp] theorem writeSP_flagV (v : Byte) (s : State) : (s.writeSP v).flagV = s.flagV := rfl
@[simp] theorem writeSP_flagN (v : Byte) (s : State) : (s.writeSP v).flagN = s.flagN := rfl
@[simp] theorem writeSP_mem (v : Byte) (s : State) : (s.writeSP v).mem = s.mem := rfl

@[simp] theorem writePC_a (v : Word) (s : State) : (s.writePC v).a = s.a := rfl
@[simp] theorem writePC_x (v : Word) (s : State) : (s.writePC v).x = s.x := rfl
@[simp] theorem writePC_y (v : Word) (s : State) : (s.writePC v).y = s.y := rfl
@[simp] theorem writePC_sp (v : Word) (s : State) : (s.writePC v).sp = s.sp := rfl
@[simp] theorem writePC_pc (v : Word) (s : State) : (s.writePC v).pc = v := rfl
@[simp] theorem writePC_flagC (v : Word) (s : State) : (s.writePC v).flagC = s.flagC := rfl
@[simp] theorem writePC_flagZ (v : Word) (s : State) : (s.writePC v).flagZ = s.flagZ := rfl
@[simp] theorem writePC_flagI (v : Word) (s : State) : (s.writePC v).flagI = s.flagI := rfl
@[simp] theorem writePC_flagD (v : Word) (s : State) : (s.writePC v).flagD = s.flagD := rfl
@[simp] theorem writePC_flagB (v : Word) (s : State) : (s.writePC v).flagB = s.flagB := rfl
@[simp] theorem writePC_flagV (v : Word) (s : State) : (s.writePC v).flagV = s.flagV := rfl
@[simp] theorem writePC_flagN (v : Word) (s : State) : (s.writePC v).flagN = s.flagN := rfl
@[simp] theorem writePC_mem (v : Word) (s : State) : (s.writePC v).mem = s.mem := rfl

@[simp] theorem writeMem_a (m : Memory) (s : State) : (s.writeMem m).a = s.a := rfl
@[simp] theorem writeMem_x (m : Memory) (s : State) : (s.writeMem m).x = s.x := rfl
@[simp] theorem writeMem_y (m : Memory) (s : State) : (s.writeMem m).y = s.y := rfl
@[simp] theorem writeMem_sp (m : Memory) (s : State) : (s.writeMem m).sp = s.sp := rfl
@[simp] theorem writeMem_pc (m : Memory) (s : State) : (s.writeMem m).pc = s.pc := rfl
@[simp] theorem writeMem_flagC (m : Memory) (s : State) : (s.writeMem m).flagC = s.flagC := rfl
@[simp] theorem writeMem_flagZ (m : Memory) (s : State) : (s.writeMem m).flagZ = s.flagZ := rfl
@[simp] theorem writeMem_flagI (m : Memory) (s : State) : (s.writeMem m).flagI = s.flagI := rfl
@[simp] theorem writeMem_flagD (m : Memory) (s : State) : (s.writeMem m).flagD = s.flagD := rfl
@[simp] theorem writeMem_flagB (m : Memory) (s : State) : (s.writeMem m).flagB = s.flagB := rfl
@[simp] theorem writeMem_flagV (m : Memory) (s : State) : (s.writeMem m).flagV = s.flagV := rfl
@[simp] theorem writeMem_flagN (m : Memory) (s : State) : (s.writeMem m).flagN = s.flagN := rfl
@[simp] theorem writeMem_mem (m : Memory) (s : State) : (s.writeMem m).mem = m := rfl

@[simp] theorem checkNegative_a {w : Nat} (r : BitVec w) (s : State) : (checkNegative r s).a = s.a := rfl
@[simp] theorem checkNegative_x {w : Nat} (r : BitVec w) (s : State) : (checkNegative r s).x = s.x := rfl
@[simp] theorem checkNegative_y {w : Nat} (r : BitVec w) (s : State) : (checkNegative r s).y = s.y := rfl
@[simp] theorem checkNegative_sp {w : Nat} (r : BitVec w) (s : State) : (checkNegative r s).sp = s.sp := rfl
@[simp] theorem checkNegative_pc {w : Nat} (r : BitVec w) (s : State) : (checkNegative r s).pc = s.pc := rfl
@[simp] theorem checkNegative_flagC {w : Nat} (r : BitVec w) (s : State) : (checkNegative r s).flagC = s.flagC := rfl
@[simp] theorem checkNegative_flagZ {w : Nat} (r : BitVec w) (s : State) : (checkNegative r s).flagZ = s.flagZ := rfl
@[simp] theorem checkNegative_flagI {w : Nat} (r : BitVec w) (s : State) : (checkNegative r s).flagI = s.flagI := rfl
@[simp] theorem checkNegative_flagD {w : Nat} (r : BitVec w) (s : State) : (checkNegative r s).flagD = s.flagD := rfl
@[simp] theorem checkNegative_flagB {w : Nat} (r : BitVec w) (s : State) : (checkNegative r s).flagB = s.flagB := rfl
@[simp] theorem checkNegative_flagV {w : Nat} (r : BitVec w) (s : State) : (checkNegative r s).flagV = s.flagV := rfl
@[simp] theorem checkNegative_flagN {w : Nat} (r : BitVec w) (s : State) : (checkNegative r s).flagN = r.msb := rfl
@[simp] theorem checkNegative_mem {w : Nat} (r : BitVec w) (s : State) : (checkNegative r s).mem = s.mem := rfl

@[simp] theorem checkZero_a {w : Nat} (r : BitVec w) (s : State) : (checkZero r s).a = s.a := rfl
@[simp] theorem checkZero_x {w : Nat} (r : BitVec w) (s : State) : (checkZero r s).x = s.x := rfl
@[simp] theorem checkZero_y {w : Nat} (r : BitVec w) (s : State) : (checkZero r s).y = s.y := rfl
@[simp] theorem checkZero_sp {w : Nat} (r : BitVec w) (s : State) : (checkZero r s).sp = s.sp := rfl
@[simp] theorem checkZero_pc {w : Nat} (r : BitVec w) (s : State) : (checkZero r s).pc = s.pc := rfl
@[simp] theorem checkZero_flagC {w : Nat} (r : BitVec w) (s : State) : (checkZero r s).flagC = s.flagC := rfl
@[simp] theorem checkZero_flagZ {w : Nat} (r : BitVec w) (s : State) : (checkZero r s).flagZ = (r == 0#w) := rfl
@[simp] theorem checkZero_flagI {w : Nat} (r : BitVec w) (s : State) : (checkZero r s).flagI = s.flagI := rfl
@[simp] theorem checkZero_flagD {w : Nat} (r : BitVec w) (s : State) : (checkZero r s).flagD = s.flagD := rfl
@[simp] theorem checkZero_flagB {w : Nat} (r : BitVec w) (s : State) : (checkZero r s).flagB = s.flagB := rfl
@[simp] theorem checkZero_flagV {w : Nat} (r : BitVec w) (s : State) : (checkZero r s).flagV = s.flagV := rfl
@[simp] theorem checkZero_flagN {w : Nat} (r : BitVec w) (s : State) : (checkZero r s).flagN = s.flagN := rfl
@[simp] theorem checkZero_mem {w : Nat} (r : BitVec w) (s : State) : (checkZero r s).mem = s.mem := rfl

@[simp] theorem setNZ_a (v : Byte) (s : State) : (setNZ v s).a = s.a := rfl
@[simp] theorem setNZ_x (v : Byte) (s : State) : (setNZ v s).x = s.x := rfl
@[simp] theorem setNZ_y (v : Byte) (s : State) : (setNZ v s).y = s.y := rfl
@[simp] theorem setNZ_sp (v : Byte) (s : State) : (setNZ v s).sp = s.sp := rfl
@[simp] theorem setNZ_pc (v : Byte) (s : State) : (setNZ v s).pc = s.pc := rfl
@[simp] theorem setNZ_flagC (v : Byte) (s : State) : (setNZ v s).flagC = s.flagC := rfl
@[simp] theorem setNZ_flagZ (v : Byte) (s : State) : (setNZ v s).flagZ = (v == 0#8) := rfl
@[simp] theorem setNZ_flagI (v : Byte) (s : State) : (setNZ v s).flagI = s.flagI := rfl
@[simp] theorem setNZ_flagD (v : Byte) (s : State) : (setNZ v s).flagD = s.flagD := rfl
@[simp] theorem setNZ_flagB (v : Byte) (s : State) : (setNZ v s).flagB = s.flagB := rfl
@[simp] theorem setNZ_flagV (v : Byte) (s : State) : (setNZ v s).flagV = s.flagV := rfl
@[simp] theorem setNZ_flagN (v : Byte) (s : State) : (setNZ v s).flagN = v.msb := rfl
@[simp] theorem setNZ_mem (v : Byte) (s : State) : (setNZ v s).mem = s.mem := rfl

@[simp] theorem putA_a (v : Byte) (s : State) : (putA v s).a = v := rfl
@[simp] theorem putA_x (v : Byte) (s : State) : (putA v s).x = s.x := rfl
@[simp] theorem putA_y (v : Byte) (s : State) : (putA v s).y = s.y := rfl
@[simp] theorem putA_sp (v : Byte) (s : State) : (putA v s).sp = s.sp := rfl
@[simp] theorem putA_pc (v : Byte) (s : State) : (putA v s).pc = s.pc := rfl
@[simp] theorem putA_flagC (v : Byte) (s : State) : (putA v s).flagC = s.flagC := rfl
@[simp] theorem putA_flagZ (v : Byte) (s : State) : (putA v s).flagZ = (v == 0#8) := rfl
@[simp] theorem putA_flagI (v : Byte) (s : State) : (putA v s).flagI = s.flagI := rfl
@[simp] theorem putA_flagD (v : Byte) (s : State) : (putA v s).flagD = s.flagD := rfl
@[simp] theorem putA_flagB (v : Byte) (s : State) : (putA v s).flagB = s.flagB := rfl
@[simp] theorem putA_flagV (v : Byte) (s : State) : (putA v s).flagV = s.flagV := rfl
@[simp] theorem putA_flagN (v : Byte) (s : State) : (putA v s).flagN = v.msb := rfl
@[simp] theorem putA_mem (v : Byte) (s : State) : (putA v s).mem = s.mem := rfl

@[simp] theorem putX_a (v : Byte) (s : State) : (putX v s).a = s.a := rfl
@[simp] theorem putX_x (v : Byte) (s : State) : (putX v s).x = v := rfl
@[simp] theorem putX_y (v : Byte) (s : State) : (putX v s).y = s.y := rfl
@[simp] theorem putX_sp (v : Byte) (s : State) : (putX v s).sp = s.sp := rfl
@[simp] theorem putX_pc (v : Byte) (s : State) : (putX v s).pc = s.pc := rfl
@[simp] theorem putX_flagC (v : Byte) (s : State) : (putX v s).flagC = s.flagC := rfl
@[simp] theorem putX_flagZ (v : Byte) (s : State) : (putX v s).flagZ = (v == 0#8) := rfl
@[simp] theorem putX_flagI (v : Byte) (s : State) : (putX v s).flagI = s.flagI := rfl
@[simp] theorem putX_flagD (v : Byte) (s : State) : (putX v s).flagD = s.flagD := rfl
@[simp] theorem putX_flagB (v : Byte) (s : State) : (putX v s).flagB = s.flagB := rfl
@[simp] theorem putX_flagV (v : Byte) (s : State) : (putX v s).flagV = s.flagV := rfl
@[simp] theorem putX_flagN (v : Byte) (s : State) : (putX v s).flagN = v.msb := rfl
@[simp] theorem putX_mem (v : Byte) (s : State) : (putX v s).mem = s.mem := rfl

@[simp] theorem putY_a (v : Byte) (s : State) : (putY v s).a = s.a := rfl
@[simp] theorem putY_x (v : Byte) (s : State) : (putY v s).x = s.x := rfl
@[simp] theorem putY_y (v : Byte) (s : State) : (putY v s).y = v := rfl
@[simp] theorem putY_sp (v : Byte) (s : State) : (putY v s).sp = s.sp := rfl
@[simp] theorem putY_pc (v : Byte) (s : State) : (putY v s).pc = s.pc := rfl
@[simp] theorem putY_flagC (v : Byte) (s : State) : (putY v s).flagC = s.flagC := rfl
@[simp] theorem putY_flagZ (v : Byte) (s : State) : (putY v s).flagZ = (v == 0#8) := rfl
@[simp] theorem putY_flagI (v : Byte) (s : State) : (putY v s).flagI = s.flagI := rfl
@[simp] theorem putY_flagD (v : Byte) (s : State) : (putY v s).flagD = s.flagD := rfl
@[simp] theorem putY_flagB (v : Byte) (s : State) : (putY v s).flagB = s.flagB := rfl
@[simp] theorem putY_flagV (v : Byte) (s : State) : (putY v s).flagV = s.flagV := rfl
@[simp] theorem putY_flagN (v : Byte) (s : State) : (putY v s).flagN = v.msb := rfl
@[simp] theorem putY_mem (v : Byte) (s : State) : (putY v s).mem = s.mem := rfl

@[simp] theorem putSP_a (v : Byte) (s : State) : (putSP v s).a = s.a := rfl
@[simp] theorem putSP_x (v : Byte) (s : State) : (putSP v s).x = s.x := rfl
@[simp] theorem putSP_y (v : Byte) (s : State) : (putSP v s).y = s.y := rfl
@[simp] theorem putSP_sp (v : Byte) (s : State) : (putSP v s).sp = v := rfl
@[simp] theorem putSP_pc (v : Byte) (s : State) : (putSP v s).pc = s.pc := rfl
@[simp] theorem putSP_flagC (v : Byte) (s : State) : (putSP v s).flagC = s.flagC := rfl
@[simp] theorem putSP_flagZ (v : Byte) (s : State) : (putSP v s).flagZ = (v == 0#8) := rfl
@[simp] theorem putSP_flagI (v : Byte) (s : State) : (putSP v s).flagI = s.flagI := rfl
@[simp] theorem putSP_flagD (v : Byte) (s : State) : (putSP v s).flagD = s.flagD := rfl
@[simp] theorem putSP_flagB (v : Byte) (s : State) : (putSP v s).flagB = s.flagB := rfl
@[simp] theorem putSP_flagV (v : Byte) (s : State) : (putSP v s).flagV = s.flagV := rfl
@[simp] theorem putSP_flagN (v : Byte) (s : State) : (putSP v s).flagN = v.msb := rfl
@[simp] theorem putSP_mem (v : Byte) (s : State) : (putSP v s).mem = s.mem := rfl

@[simp] theorem storeByte_a (ea : Word) (v : Byte) (s : State) : (storeByte ea v s).a = s.a := rfl
@[simp] theorem storeByte_x (ea : Word) (v : Byte) (s : State) : (storeByte ea v s).x = s.x := rfl
@[simp] theorem storeByte_y (ea : Word) (v : Byte) (s : State) : (storeByte ea v s).y = s.y := rfl
@[simp] theorem storeByte_sp (ea : Word) (v : Byte) (s : State) : (storeByte ea v s).sp = s.sp := rfl
@[simp] theorem storeByte_pc (ea : Word) (v : Byte) (s : State) : (storeByte ea v s).pc = s.pc := rfl
@[simp] theorem storeByte_flagC (ea : Word) (v : Byte) (s : State) : (storeByte ea v s).flagC = s.flagC := rfl
@[simp] theorem storeByte_flagZ (ea : Word) (v : Byte) (s : State) : (storeByte ea v s).flagZ = s.flagZ := rfl
@[simp] theorem storeByte_flagI (ea : Word) (v : Byte) (s : State) : (storeByte ea v s).flagI = s.flagI := rfl
@[simp] theorem storeByte_flagD (ea : Word) (v : Byte) (s : State) : (storeByte ea v s).flagD = s.flagD := rfl
@[simp] theorem storeByte_flagB (ea : Word) (v : Byte) (s : State) : (storeByte ea v s).flagB = s.flagB := rfl
@[simp] theorem storeByte_flagV (ea : Word) (v : Byte) (s : State) : (storeByte ea v s).flagV = s.flagV := rfl
@[simp] theorem storeByte_flagN (ea : Word) (v : Byte) (s : State) : (storeByte ea v s).flagN = s.flagN := rfl
@[simp] theorem storeByte_mem (ea : Word) (v : Byte) (s : State) : (storeByte ea v s).mem = (s.mem.writeByte ea.toNat v.toNat).2 := rfl

@[simp] theorem advancePC_a (len : Nat) (s : State) : (advancePC len s).a = s.a := rfl
@[simp] theorem advancePC_x (len : Nat) (s : State) : (advancePC len s).x = s.x := rfl
@[simp] theorem advancePC_y (len : Nat) (s : State) : (advancePC len s).y = s.y := rfl
@[simp] theorem advancePC_sp (len : Nat) (s : State) : (advancePC len s).sp = s.sp := rfl
@[simp] theorem advancePC_pc (len : Nat) (s : State) : (advancePC len s).pc = s.pc + BitVec.ofNat 16 len := rfl
@[simp] theorem advancePC_flagC (len : Nat) (s : State) : (advancePC len s).flagC = s.flagC := rfl
@[simp] theorem advancePC_flagZ (len : Nat) (s : State) : (advancePC len s).flagZ = s.flagZ := rfl
@[simp] theorem advancePC_flagI (len : Nat) (s : State) : (advancePC len s).flagI = s.flagI := rfl
@[simp] theorem advancePC_flagD (len : Nat) (s : State) : (advancePC len s).flagD = s.flagD := rfl
@[simp] theorem advancePC_flagB (len : Nat) (s : State) : (advancePC len s).flagB = s.flagB := rfl
@[simp] theorem advancePC_flagV (len : Nat) (s : State) : (advancePC len s).flagV = s.flagV := rfl
@[simp] theorem advancePC_flagN (len : Nat) (s : State) : (advancePC len s).flagN = s.flagN := rfl
@[simp] theorem advancePC_mem (len : Nat) (s : State) : (advancePC len s).mem = s.mem := rfl

end Sys2Proof.Machine
end

