-- ==== Sys2Proof/Laws/Exec.lean ====
section
/-! SUPPORT. What an instruction can do to the state, said once for all 37: the shape of the next state is fixed by the
mnemonic. -/

namespace Sys2Proof.Machine

/-- Every next state of `exec`: a register written with its flags, X written alone, or one byte stored (R26). -/
theorem exec_next {i : Instr} {s t : State} (h : exec i s = .next t) :
    ((i.mnemonic = .lda ∨ i.mnemonic = .txa ∨ i.mnemonic = .tya) ∧ ∃ v, t = putA v s) ∨
    ((i.mnemonic = .ldx ∨ i.mnemonic = .tax) ∧ ∃ v, t = putX v s) ∨
    ((i.mnemonic = .ldy ∨ i.mnemonic = .tay) ∧ ∃ v, t = putY v s) ∨
    (i.mnemonic = .txs ∧ t = putSP s.x s) ∨
    (i.mnemonic = .tsx ∧ t = s.writeX s.sp) ∨
    (i.mnemonic = .sta ∧ ∃ ea, t = storeByte ea s.a s) ∨
    (i.mnemonic = .stx ∧ ∃ ea, t = storeByte ea s.x s) ∨
    (i.mnemonic = .sty ∧ ∃ ea, t = storeByte ea s.y s) := by
  cases i <;> cases h <;> simp only [Instr.mnemonic, Instr.toTerm, reduceCtorEq, false_and, true_and, false_or, or_false,
    or_self, or_true] <;> exact ⟨_, rfl⟩

end Sys2Proof.Machine
end

