-- ==== Sys2Proof/Laws/Memory.lean ====
section
/-! SUPPORT. What the memory operations do: the byte of an address after a store, and that every operation keeps the canonical
form. -/

namespace Sys2Proof.Machine

@[simp] theorem lookup_nil (a : Nat) : Memory.lookup [] a = Memory.unlisted := rfl

theorem lookup_cons (k : Nat) (v : Byte) (m : Memory) (a : Nat) :
    Memory.lookup ((k, v) :: m) a = if k = a then v else Memory.lookup m a := rfl

theorem lookup_unlist (m : Memory) (a b : Nat) :
    (m.unlist a).lookup b = if b = a then Memory.unlisted else m.lookup b := by
  induction m with
  | nil => simp [Memory.unlist]
  | cons cell m ih =>
    obtain ⟨k, v⟩ := cell
    by_cases hk : k = a <;> by_cases hb : b = a <;> by_cases hkb : k = b <;>
      simp_all [Memory.unlist, lookup_cons]

theorem lookup_enlist (m : Memory) (a : Nat) (v : Byte) (b : Nat) (absent : ∀ cell ∈ m, cell.1 ≠ a) :
    (m.enlist a v).lookup b = if b = a then v else m.lookup b := by
  induction m with
  | nil => simp only [Memory.enlist, lookup_cons, eq_comm]
  | cons cell m ih =>
    obtain ⟨k, w⟩ := cell
    have hk : k ≠ a := absent (k, w) (by simp)
    have ih := ih (fun c hc => absent c (by simp [hc]))
    unfold Memory.enlist
    split
    · simp only [lookup_cons, eq_comm (a := a)]
    · rw [lookup_cons, lookup_cons, ih]
      by_cases hb : b = a
      · simp [hb, hk]
      · simp [hb]

theorem unlist_absent (m : Memory) (a : Nat) : ∀ cell ∈ m.unlist a, cell.1 ≠ a := by
  induction m with
  | nil => simp [Memory.unlist]
  | cons cell m ih =>
    obtain ⟨k, v⟩ := cell
    by_cases hk : k = a
    · simpa [Memory.unlist, hk] using ih
    · simp only [Memory.unlist, hk, if_false, List.mem_cons, forall_eq_or_imp]
      exact ⟨hk, ih⟩

/-- The spec of `store`, on any list: the address holds the value, every other address what it held. -/
theorem lookup_store (m : Memory) (a : Nat) (v : Byte) (b : Nat) :
    (m.store a v).lookup b = if b = a then v else m.lookup b := by
  unfold Memory.store
  split
  · rename_i hv
    rw [lookup_unlist, hv]
  · rw [lookup_enlist _ _ _ _ (unlist_absent m a), lookup_unlist]
    split <;> rfl

theorem wfFrom_cons (lo k : Nat) (v : Byte) (m : Memory) : Memory.wfFrom lo ((k, v) :: m) = true ↔
    lo ≤ k ∧ k < Config.memSize ∧ v ≠ Memory.unlisted ∧ Memory.wfFrom (k + 1) m = true := by
  simp [Memory.wfFrom, and_assoc]

theorem wfFrom_mono {lo lo' : Nat} (h : lo ≤ lo') {m : Memory} (hm : Memory.wfFrom lo' m = true) :
    Memory.wfFrom lo m = true := by
  cases m with
  | nil => rfl
  | cons cell m =>
    obtain ⟨k, v⟩ := cell
    rw [wfFrom_cons] at hm ⊢
    exact ⟨by omega, hm.2⟩

theorem wfFrom_unlist {lo : Nat} {m : Memory} (a : Nat) (hm : Memory.wfFrom lo m = true) :
    Memory.wfFrom lo (m.unlist a) = true := by
  induction m generalizing lo with
  | nil => rfl
  | cons cell m ih =>
    obtain ⟨k, v⟩ := cell
    rw [wfFrom_cons] at hm
    unfold Memory.unlist
    split
    · exact wfFrom_mono (by omega) (ih hm.2.2.2)
    · rw [wfFrom_cons]
      exact ⟨hm.1, hm.2.1, hm.2.2.1, ih hm.2.2.2⟩

theorem wfFrom_enlist {lo : Nat} {m : Memory} {a : Nat} {v : Byte} (hm : Memory.wfFrom lo m = true) (hlo : lo ≤ a)
    (ha : a < Config.memSize) (hv : v ≠ Memory.unlisted) (absent : ∀ cell ∈ m, cell.1 ≠ a) :
    Memory.wfFrom lo (m.enlist a v) = true := by
  induction m generalizing lo with
  | nil => exact (wfFrom_cons _ _ _ _).2 ⟨hlo, ha, hv, rfl⟩
  | cons cell m ih =>
    obtain ⟨k, w⟩ := cell
    have hk : k ≠ a := absent (k, w) (by simp)
    rw [wfFrom_cons] at hm
    unfold Memory.enlist
    split
    · rw [wfFrom_cons, wfFrom_cons]
      exact ⟨hlo, ha, hv, by omega, hm.2⟩
    · rw [wfFrom_cons]
      exact ⟨hm.1, hm.2.1, hm.2.2.1, ih hm.2.2.2 (by omega) (fun c hc => absent c (by simp [hc]))⟩

theorem wf_store {m : Memory} (hm : m.wf = true) {a : Nat} (ha : a < Config.memSize) (v : Byte) :
    (m.store a v).wf = true := by
  unfold Memory.store
  split
  · exact wfFrom_unlist a hm
  · rename_i hv
    exact wfFrom_enlist (wfFrom_unlist a hm) (Nat.zero_le a) ha hv (unlist_absent m a)

theorem address_lt (addr : Nat) : addr % Config.memSize < Config.memSize := Nat.mod_lt _ (by decide)

/-- `writeByte` keeps the canonical form. -/
theorem wf_writeByte {m : Memory} (hm : m.wf = true) (addr v : Nat) : (m.writeByte addr v).2.wf = true :=
  wf_store hm (address_lt addr) _

/-- `writeWord` keeps the canonical form. -/
theorem wf_writeWord {m : Memory} (hm : m.wf = true) (addr v : Nat) : (m.writeWord addr v).2.wf = true :=
  wf_writeByte (wf_writeByte hm _ _) _ _

/-- The spec of a store's write, value and address of the machine's own widths. -/
theorem readByte_storeByte (ea : Word) (v : Byte) (s : State) (b : Nat) :
    (storeByte ea v s).mem.readByte b = if b % Config.memSize = ea.toNat then v else s.mem.readByte b := by
  have : ea.toNat % Config.memSize = ea.toNat := Nat.mod_eq_of_lt ea.isLt
  simp [storeByte, State.writeMem, Memory.writeByte, Memory.readByte, lookup_store, this]

end Sys2Proof.Machine
end

