-- ==== Sys2Proof/Laws/Operands.lean ====
section
/-! SUPPORT. The byte order and extension helpers as arithmetic on numbers. -/

namespace Sys2Proof.Machine

@[simp] theorem zext16_toNat (b : Byte) : (zext16 b).toNat = b.toNat := by
  have := b.isLt
  simp only [zext16, BitVec.toNat_setWidth]
  omega

/-- R53, R33: the first byte is the low one. -/
theorem operandWord_toNat (b1 b2 : Byte) : (operandWord b1 b2).toNat = b2.toNat * 256 + b1.toNat := by
  have h1 := b1.isLt
  have h : (operandWord b1 b2).toNat = b2.toNat <<< 8 ||| b1.toNat := BitVec.toNat_append b2 b1
  rw [h, ← Nat.shiftLeft_add_eq_or_of_lt h1, Nat.shiftLeft_eq]

theorem lowByte_toNat (w : Word) : (lowByte w).toNat = w.toNat % 256 := by
  simp [lowByte, BitVec.extractLsb'_toNat]

theorem highByte_toNat (w : Word) : (highByte w).toNat = w.toNat / 256 := by
  have := w.isLt
  simp only [highByte, BitVec.extractLsb'_toNat, Nat.shiftRight_eq_div_pow]
  omega

theorem operandWord_lowByte_highByte (w : Word) : operandWord (lowByte w) (highByte w) = w := by
  apply BitVec.eq_of_toNat_eq
  rw [operandWord_toNat, lowByte_toNat, highByte_toNat]
  omega

@[simp] theorem lowByte_operandWord (b1 b2 : Byte) : lowByte (operandWord b1 b2) = b1 := by
  apply BitVec.eq_of_toNat_eq
  have := b1.isLt
  rw [lowByte_toNat, operandWord_toNat]
  omega

@[simp] theorem highByte_operandWord (b1 b2 : Byte) : highByte (operandWord b1 b2) = b2 := by
  apply BitVec.eq_of_toNat_eq
  have := b1.isLt
  rw [highByte_toNat, operandWord_toNat]
  omega

end Sys2Proof.Machine
end

