-- ==== Sys2Proof/Laws/PerInstr.lean ====
section
/-! SUPPORT. The statements made of every instruction as data, one lemma a constructor: an instruction is well formed (R64), its
encoding has its length (R51), and that length is its opcode byte's. -/

namespace Sys2Proof.Laws.EncodedForm

/-- The instruction is well formed, and its opcode byte gives the length of its encoding. -/
def Statement (i : Instr) : Prop :=
  i.wf = true ∧ (encode i).length = instrLength i ∧ (encode i).head?.bind opcodeLength = some (instrLength i)

theorem byte_fits (b : Byte) : decide (b.toNat ≤ 0xFF) = true := decide_eq_true (by have := b.isLt; omega)

theorem word_fits (w : Word) : decide (w.toNat ≤ 0xFFFF) = true := decide_eq_true (by have := w.isLt; omega)

theorem staIzx (b1 : Byte) : Statement (.staIzx b1) := ⟨byte_fits b1, rfl, rfl⟩
theorem styZp (b1 : Byte) : Statement (.styZp b1) := ⟨byte_fits b1, rfl, rfl⟩
theorem staZp (b1 : Byte) : Statement (.staZp b1) := ⟨byte_fits b1, rfl, rfl⟩
theorem stxZp (b1 : Byte) : Statement (.stxZp b1) := ⟨byte_fits b1, rfl, rfl⟩
theorem txa : Statement .txa := ⟨rfl, rfl, rfl⟩
theorem styAbs (w : Word) : Statement (.styAbs w) := ⟨word_fits w, rfl, rfl⟩
theorem staAbs (w : Word) : Statement (.staAbs w) := ⟨word_fits w, rfl, rfl⟩
theorem stxAbs (w : Word) : Statement (.stxAbs w) := ⟨word_fits w, rfl, rfl⟩
theorem staIzy (b1 : Byte) : Statement (.staIzy b1) := ⟨byte_fits b1, rfl, rfl⟩
theorem styZpx (b1 : Byte) : Statement (.styZpx b1) := ⟨byte_fits b1, rfl, rfl⟩
theorem staZpx (b1 : Byte) : Statement (.staZpx b1) := ⟨byte_fits b1, rfl, rfl⟩
theorem stxZpy (b1 : Byte) : Statement (.stxZpy b1) := ⟨byte_fits b1, rfl, rfl⟩
theorem tya : Statement .tya := ⟨rfl, rfl, rfl⟩
theorem staAby (w : Word) : Statement (.staAby w) := ⟨word_fits w, rfl, rfl⟩
theorem txs : Statement .txs := ⟨rfl, rfl, rfl⟩
theorem staAbx (w : Word) : Statement (.staAbx w) := ⟨word_fits w, rfl, rfl⟩
theorem ldyImm (b1 : Byte) : Statement (.ldyImm b1) := ⟨byte_fits b1, rfl, rfl⟩
theorem ldaIzx (b1 : Byte) : Statement (.ldaIzx b1) := ⟨byte_fits b1, rfl, rfl⟩
theorem ldxImm (b1 : Byte) : Statement (.ldxImm b1) := ⟨byte_fits b1, rfl, rfl⟩
theorem ldyZp (b1 : Byte) : Statement (.ldyZp b1) := ⟨byte_fits b1, rfl, rfl⟩
theorem ldaZp (b1 : Byte) : Statement (.ldaZp b1) := ⟨byte_fits b1, rfl, rfl⟩
theorem ldxZp (b1 : Byte) : Statement (.ldxZp b1) := ⟨byte_fits b1, rfl, rfl⟩
theorem tay : Statement .tay := ⟨rfl, rfl, rfl⟩
theorem ldaImm (b1 : Byte) : Statement (.ldaImm b1) := ⟨byte_fits b1, rfl, rfl⟩
theorem tax : Statement .tax := ⟨rfl, rfl, rfl⟩
theorem ldyAbs (w : Word) : Statement (.ldyAbs w) := ⟨word_fits w, rfl, rfl⟩
theorem ldaAbs (w : Word) : Statement (.ldaAbs w) := ⟨word_fits w, rfl, rfl⟩
theorem ldxAbs (w : Word) : Statement (.ldxAbs w) := ⟨word_fits w, rfl, rfl⟩
theorem ldaIzy (b1 : Byte) : Statement (.ldaIzy b1) := ⟨byte_fits b1, rfl, rfl⟩
theorem ldyZpx (b1 : Byte) : Statement (.ldyZpx b1) := ⟨byte_fits b1, rfl, rfl⟩
theorem ldaZpx (b1 : Byte) : Statement (.ldaZpx b1) := ⟨byte_fits b1, rfl, rfl⟩
theorem ldxZpy (b1 : Byte) : Statement (.ldxZpy b1) := ⟨byte_fits b1, rfl, rfl⟩
theorem ldaAby (w : Word) : Statement (.ldaAby w) := ⟨word_fits w, rfl, rfl⟩
theorem tsx : Statement .tsx := ⟨rfl, rfl, rfl⟩
theorem ldyAbx (w : Word) : Statement (.ldyAbx w) := ⟨word_fits w, rfl, rfl⟩
theorem ldaAbx (w : Word) : Statement (.ldaAbx w) := ⟨word_fits w, rfl, rfl⟩
theorem ldxAby (w : Word) : Statement (.ldxAby w) := ⟨word_fits w, rfl, rfl⟩

end Sys2Proof.Laws.EncodedForm
end

