-- ==== Sys2Proof/Laws/Run.lean ====
section
/-! SUPPORT. A run by its steps: the two lemmas from which a claim about runs is an induction on their number. -/

namespace Sys2Proof.Machine

theorem completesIn_zero {s t : State} : CompletesIn 0 s t ↔ t = s := by
  constructor
  · intro h
    cases h
    rfl
  · rintro rfl
    rfl

theorem completesIn_succ {n : Nat} {s t : State} :
    CompletesIn (n + 1) s t ↔ ∃ u, step s = .next u ∧ CompletesIn n u t := by
  rw [CompletesIn, Host.Core.run.eq_2 Sys2Proof.core s n]
  show _ ↔ ∃ u, Sys2Proof.core.step s = .next u ∧ _
  cases h : Sys2Proof.core.step s with
  | next u =>
    constructor
    · intro hr
      exact ⟨u, rfl, hr⟩
    · rintro ⟨u', hu, hr⟩
      cases hu
      exact hr
  | fault r =>
    constructor
    · intro h
      cases h
    · rintro ⟨_, h, _⟩
      cases h
  | refused r =>
    constructor
    · intro h
      cases h
    · rintro ⟨_, h, _⟩
      cases h

/-- What holds of every step, and passes from one step to the next, holds of every run. -/
theorem completesIn_induction {R : State → State → Prop} (refl : ∀ s, R s s)
    (trans : ∀ s u t, step s = .next u → R u t → R s t) : ∀ n s t, CompletesIn n s t → R s t := by
  intro n
  induction n with
  | zero =>
    intro s t h
    obtain rfl := completesIn_zero.1 h
    exact refl _
  | succ n ih =>
    intro s t h
    obtain ⟨u, hu, ht⟩ := completesIn_succ.1 h
    exact trans s u t hu (ih u t ht)

end Sys2Proof.Machine
end

