-- ==== Sys2Proof/Laws/Step.lean ====
section
/-! SUPPORT. What a step can do: refuse with the decoder's reason, or run the instruction fetched. -/

namespace Sys2Proof.Machine

theorem step_next {s t : State} (h : step s = .next t) :
    ∃ i, fetch s = .ok i ∧ exec i (advancePC (instrLength i) s) = .next t := by
  unfold step at h
  split at h
  · simp at h
  · rename_i i hi
    exact ⟨i, hi, h⟩

theorem step_of_fetch {s : State} {i : Instr} (h : fetch s = .ok i) :
    step s = exec i (advancePC (instrLength i) s) := by
  simp [step, h]

theorem step_of_fetch_error {s : State} {e : DecodeError} (h : fetch s = .error e) :
    step s = .refused (.undecodable e) := by
  simp [step, h]

theorem fetch_ok {s : State} {i : Instr} (h : fetch s = .ok i) : ∃ rest, decode (fetchBytes s) = .ok (i, rest) := by
  unfold fetch at h
  split at h
  · rename_i j rest hd
    cases h
    exact ⟨rest, hd⟩
  · simp at h

end Sys2Proof.Machine
end

