-- ==== Sys2Proof/Tests/Slice0.lean ====
section
/-! SUPPORT. Tests. Expected values are the spec's: the rows of R56, the vectors M, L, S, T, K of 95_test_vectors.md (a test's name
gives its vector), the examples of R62. Where a vector says "any", the state is the reset state. After them, for every statement
of Certificates/Slice0/Obligations.lean that has hypotheses or clauses, a state and operands that meet them. -/

namespace Sys2Proof.Tests

open Sys2Proof Sys2Proof.Machine Sys2Proof.Claims

/-- The next state, if there is one. -/
def after (o : Host.Outcome State Fault Refusal) : Option State :=
  match o with
  | .next s => some s
  | .fault _ => none
  | .refused _ => none

/-- The refusal, if there is one. -/
def refusal (o : Host.Outcome State Fault Refusal) : Option Refusal :=
  match o with
  | .next _ => none
  | .fault _ => none
  | .refused r => some r

/-- The next state of an instruction and the accesses it makes. -/
def ran (i : Instr) (s : State) : Option State × List Access := (after (exec i s), accesses i s)

/-! ## Well-formedness (R64): what the check refuses, and what it takes -/

theorem test_wf_refuses_pairs_that_are_no_rows :
    [(⟨.sta, .imm, .byte 0x10⟩ : Term), ⟨.ldx, .zpx, .byte 0x10⟩, ⟨.ldy, .zpy, .byte 0x10⟩, ⟨.stx, .aby, .word 0x1234⟩,
      ⟨.sty, .abx, .word 0x1234⟩, ⟨.ldx, .izy, .byte 0x10⟩, ⟨.tax, .imm, .byte 0x10⟩, ⟨.lda, .imp, .none⟩].all
        (fun t => t.wf == false && t.toInstr? == none) = true := by decide

theorem test_wf_refuses_a_byte_operand_above_0xFF :
    [Format.imm, .zp, .zpx, .abs, .abx, .aby, .izx, .izy].all (fun f => (⟨.lda, f, .byte 0x100⟩ : Term).wf == false) = true ∧
      (⟨.ldx, .zpy, .byte 0x100⟩ : Term).wf = false := by decide

theorem test_wf_refuses_a_word_operand_above_0xFFFF :
    [Format.abs, .abx, .aby].all (fun f => (⟨.lda, f, .word 0x10000⟩ : Term).wf == false) = true := by decide

theorem test_wf_refuses_an_operand_of_another_kind :
    [(⟨.tax, .imp, .byte 0x00⟩ : Term), ⟨.tax, .imp, .word 0x0000⟩, ⟨.lda, .imm, .none⟩, ⟨.lda, .imm, .word 0x0000⟩,
      ⟨.lda, .zp, .word 0x0000⟩, ⟨.ldx, .zpy, .none⟩, ⟨.lda, .izx, .word 0x0000⟩, ⟨.lda, .izy, .none⟩, ⟨.lda, .abs, .none⟩,
      ⟨.lda, .abs, .byte 0x00⟩, ⟨.lda, .abx, .byte 0x00⟩, ⟨.lda, .aby, .byte 0x00⟩].all (fun t => t.wf == false) = true := by decide

theorem test_wf_takes_the_bounds :
    (⟨.lda, .imm, .byte 0xFF⟩ : Term).toInstr? = some (.ldaImm 0xFF) ∧ (⟨.lda, .abs, .word 0xFFFF⟩ : Term).toInstr? = some (.ldaAbs 0xFFFF) ∧
      (⟨.tax, .imp, .none⟩ : Term).toInstr? = some .tax := by decide

/-! ## Decoding: the words of R56, written out -/

theorem test_decode_staIzx : decode [0b10000001, 0x5A] = .ok (.staIzx 0x5A, []) := by decide
theorem test_decode_styZp : decode [0b10000100, 0x5A] = .ok (.styZp 0x5A, []) := by decide
theorem test_decode_staZp : decode [0b10000101, 0x5A] = .ok (.staZp 0x5A, []) := by decide
theorem test_decode_stxZp : decode [0b10000110, 0x5A] = .ok (.stxZp 0x5A, []) := by decide
theorem test_decode_txa : decode [0b10001010] = .ok (.txa, []) := by decide
theorem test_decode_styAbs : decode [0b10001100, 0x34, 0x12] = .ok (.styAbs 0x1234, []) := by decide
theorem test_decode_staAbs : decode [0b10001101, 0x34, 0x12] = .ok (.staAbs 0x1234, []) := by decide
theorem test_decode_stxAbs : decode [0b10001110, 0x34, 0x12] = .ok (.stxAbs 0x1234, []) := by decide
theorem test_decode_staIzy : decode [0b10010001, 0x5A] = .ok (.staIzy 0x5A, []) := by decide
theorem test_decode_styZpx : decode [0b10010100, 0x5A] = .ok (.styZpx 0x5A, []) := by decide
theorem test_decode_staZpx : decode [0b10010101, 0x5A] = .ok (.staZpx 0x5A, []) := by decide
theorem test_decode_stxZpy : decode [0b10010110, 0x5A] = .ok (.stxZpy 0x5A, []) := by decide
theorem test_decode_tya : decode [0b10011000] = .ok (.tya, []) := by decide
theorem test_decode_staAby : decode [0b10011001, 0x34, 0x12] = .ok (.staAby 0x1234, []) := by decide
theorem test_decode_txs : decode [0b10011010] = .ok (.txs, []) := by decide
theorem test_decode_staAbx : decode [0b10011101, 0x34, 0x12] = .ok (.staAbx 0x1234, []) := by decide
theorem test_decode_ldyImm : decode [0b10100000, 0x5A] = .ok (.ldyImm 0x5A, []) := by decide
theorem test_decode_ldaIzx : decode [0b10100001, 0x5A] = .ok (.ldaIzx 0x5A, []) := by decide
theorem test_decode_ldxImm : decode [0b10100010, 0x5A] = .ok (.ldxImm 0x5A, []) := by decide
theorem test_decode_ldyZp : decode [0b10100100, 0x5A] = .ok (.ldyZp 0x5A, []) := by decide
theorem test_decode_ldaZp : decode [0b10100101, 0x5A] = .ok (.ldaZp 0x5A, []) := by decide
theorem test_decode_ldxZp : decode [0b10100110, 0x5A] = .ok (.ldxZp 0x5A, []) := by decide
theorem test_decode_tay : decode [0b10101000] = .ok (.tay, []) := by decide
theorem test_decode_ldaImm : decode [0b10101001, 0x5A] = .ok (.ldaImm 0x5A, []) := by decide
theorem test_decode_tax : decode [0b10101010] = .ok (.tax, []) := by decide
theorem test_decode_ldyAbs : decode [0b10101100, 0x34, 0x12] = .ok (.ldyAbs 0x1234, []) := by decide
theorem test_decode_ldaAbs : decode [0b10101101, 0x34, 0x12] = .ok (.ldaAbs 0x1234, []) := by decide
theorem test_decode_ldxAbs : decode [0b10101110, 0x34, 0x12] = .ok (.ldxAbs 0x1234, []) := by decide
theorem test_decode_ldaIzy : decode [0b10110001, 0x5A] = .ok (.ldaIzy 0x5A, []) := by decide
theorem test_decode_ldyZpx : decode [0b10110100, 0x5A] = .ok (.ldyZpx 0x5A, []) := by decide
theorem test_decode_ldaZpx : decode [0b10110101, 0x5A] = .ok (.ldaZpx 0x5A, []) := by decide
theorem test_decode_ldxZpy : decode [0b10110110, 0x5A] = .ok (.ldxZpy 0x5A, []) := by decide
theorem test_decode_ldaAby : decode [0b10111001, 0x34, 0x12] = .ok (.ldaAby 0x1234, []) := by decide
theorem test_decode_tsx : decode [0b10111010] = .ok (.tsx, []) := by decide
theorem test_decode_ldyAbx : decode [0b10111100, 0x34, 0x12] = .ok (.ldyAbx 0x1234, []) := by decide
theorem test_decode_ldaAbx : decode [0b10111101, 0x34, 0x12] = .ok (.ldaAbx 0x1234, []) := by decide
theorem test_decode_ldxAby : decode [0b10111110, 0x34, 0x12] = .ok (.ldxAby 0x1234, []) := by decide

theorem test_decode_rejects_undefined_bytes :
    [0x00, 0x80, 0x82, 0x9E, 0xBF, 0xC0, 0xEA, 0xFF].all (fun opc => match decode [opc, 0x5A, 0x12] with
      | .error e => e == .undefinedOpcode opc
      | .ok _ => false) = true := by decide

theorem test_decode_rejects_missing_bytes :
    decode [] = .error .truncated ∧ decode [0xA9] = .error .truncated ∧ decode [0xAD, 0x34] = .error .truncated := by decide

theorem test_decodeTableWord_numbers_bytes_from_the_opcode :
    decodeTableWord 8 0xAA = some .tax ∧ decodeTableWord 16 0x10A5 = some (.ldaZp 0x10) ∧
      decodeTableWord 24 0x1234AD = some (.ldaAbs 0x1234) ∧ decodeTableWord 8 0xA9 = some (.ldaImm 0x00) ∧
      decodeTableWord 8 0x00 = none := by decide

/-- The decoder's table and R56 have 37 rows, no two with one opcode. -/
theorem test_table_rows_are_37_and_distinct :
    opcodeTable.length = 37 ∧ (opcodeTable.map OpcodeRow.opcode).Pairwise (· < ·) := by decide

/-! ## Assembler text (R62, its table) -/

theorem test_asm_examples_without_index :
    parseAsm "TAX".toList = some .tax ∧ parseAsm "LDA #$80".toList = some (.ldaImm 0x80) ∧
      parseAsm "LDA $10".toList = some (.ldaZp 0x10) ∧ parseAsm "LDA $1234".toList = some (.ldaAbs 0x1234) := by decide

theorem test_asm_examples_with_index :
    parseAsm "LDA $0B,X".toList = some (.ldaZpx 0x0B) ∧ parseAsm "LDX $10,Y".toList = some (.ldxZpy 0x10) ∧
      parseAsm "LDA $FFFF,X".toList = some (.ldaAbx 0xFFFF) ∧ parseAsm "LDA $1234,Y".toList = some (.ldaAby 0x1234) ∧
      parseAsm "LDA ($20,X)".toList = some (.ldaIzx 0x20) ∧ parseAsm "LDA ($20),Y".toList = some (.ldaIzy 0x20) := by decide

/-- Four digits select the absolute format, two the zero-page one; a pair that is no row is no instruction (R62, R64). -/
theorem test_asm_digits_select_the_format :
    parseAsm "LDA $0010".toList = some (.ldaAbs 0x0010) ∧ parseAsm "STA #$10".toList = none ∧ parseAsm "LDX $10,X".toList = none ∧
      String.ofList (asmText (.ldaAbs 0x1234)) = "LDA $1234" ∧ String.ofList (asmText (.staIzy 0x20)) = "STA ($20),Y" := by decide

/-! ## Memory (vectors M) -/

theorem test_M1_byte_is_reduced : Memory.writeByte [] 0x1234 0x1FF = (0xFF, [(0x1234, 0xFF)]) := by decide
theorem test_M2_address_is_reduced : (Memory.writeByte [] 0x10000 0x12).2 = [(0x0000, 0x12)] := by decide
theorem test_M3_word_wraps :
    Memory.writeWord [] 0xFFFF 0xBEEF = (0xBEEF, [(0x0000, 0xBE), (0xFFFF, 0xEF)]) ∧
      Memory.readWord [(0x0000, 0xBE), (0xFFFF, 0xEF)] 0xFFFF = 0xBEEF := by decide
theorem test_M4_word_straddles_page : (Memory.writeWord [] 0x00FF 0x1234).2 = [(0x00FF, 0x34), (0x0100, 0x12)] := by decide
theorem test_M5_word_at_odd_address : Memory.readWord [(0x2001, 0xCD), (0x2002, 0xAB)] 0x2001 = 0xABCD := by decide
theorem test_M6_read_reduces_address : Memory.readByte [(0x2345, 0x5A)] 0x12345 = 0x5A := by decide
theorem test_M7_reset_memory_is_zero : State.reset.mem.readByte 0x4000 = 0x00 := by decide
theorem test_M8_word_is_two_bytes :
    Memory.readWord (Memory.writeByte (Memory.writeWord [] 0x3000 0x1234).2 0x3001 0x99).2 0x3000 = 0x9934 := by decide

/-- Writing what an unlisted address reads as removes the entry; the form is checked (assumption log 6). -/
theorem test_memory_form :
    Memory.store [(1, 0x11), (2, 0x22)] 1 0x00 = [(2, 0x22)] ∧ Memory.store [(1, 0x11), (3, 0x33)] 2 0x22 = [(1, 0x11), (2, 0x22), (3, 0x33)] ∧
      Memory.wf [(2, 0x22), (1, 0x11)] = false ∧ Memory.wf [(1, 0x00)] = false ∧ Memory.wf [(65536, 0x01)] = false ∧
      Memory.wf [(1, 0x11), (1, 0x11)] = false := by decide

/-! ## Instructions (vectors L, S, T): the whole next state, and the accesses -/

theorem test_L1_ldaImm :
    ran (.ldaImm 0x00) { State.reset with flagN := true } =
      (some { State.reset with flagZ := true }, []) := by decide

theorem test_L2_ldaImm :
    ran (.ldaImm 0x80) { State.reset with flagZ := true } =
      (some { State.reset with a := 0x80, flagN := true }, []) := by decide

theorem test_L5_ldaZp :
    ran (.ldaZp 0x10) { State.reset with flagZ := true, flagN := true, mem := [(0x0010, 0x42)] } =
      (some { State.reset with a := 0x42, mem := [(0x0010, 0x42)] }, [.read 0x0010]) := by decide

theorem test_L30_ldaZp :
    ran (.ldaZp 0x00) { State.reset with flagN := true } =
      (some { State.reset with flagZ := true }, [.read 0x0000]) := by decide

theorem test_L6_ldaZpx :
    ran (.ldaZpx 0xFF) { State.reset with x := 0x02, mem := [(0x0001, 0x99), (0x0101, 0x55)] } =
      (some { State.reset with a := 0x99, x := 0x02, flagN := true, mem := [(0x0001, 0x99), (0x0101, 0x55)] },
        [.read 0x0001]) := by decide

theorem test_L8_ldaZpx :
    ran (.ldaZpx 0x80) { State.reset with x := 0x80, mem := [(0x0000, 0x07), (0x0100, 0xEE)] } =
      (some { State.reset with a := 0x07, x := 0x80, mem := [(0x0000, 0x07), (0x0100, 0xEE)] }, [.read 0x0000]) := by decide

theorem test_L9_ldaAbs :
    ran (.ldaAbs 0x1234) { State.reset with flagN := true } =
      (some { State.reset with flagZ := true }, [.read 0x1234]) := by decide

theorem test_L10_ldaAbx :
    ran (.ldaAbx 0xFFFF) { State.reset with x := 0x01, mem := [(0x0000, 0x77)] } =
      (some { State.reset with a := 0x77, x := 0x01, mem := [(0x0000, 0x77)] }, [.read 0x0000]) := by decide

theorem test_L11_ldaAbx :
    ran (.ldaAbx 0x12F0) { State.reset with x := 0x20, mem := [(0x1210, 0x44), (0x1310, 0x81)] } =
      (some { State.reset with a := 0x81, x := 0x20, flagN := true, mem := [(0x1210, 0x44), (0x1310, 0x81)] },
        [.read 0x1310]) := by decide

theorem test_L12_ldaAby :
    ran (.ldaAby 0xFFFF) { State.reset with y := 0xFF, mem := [(0x00FE, 0x3C)] } =
      (some { State.reset with a := 0x3C, y := 0xFF, mem := [(0x00FE, 0x3C)] }, [.read 0x00FE]) := by decide

theorem test_L14_ldaIzx :
    ran (.ldaIzx 0xFE) { State.reset with x := 0x01, mem := [(0x0000, 0x99), (0x00FF, 0x34), (0x0100, 0x12), (0x1234, 0xAB), (0x9934, 0xCD)] } =
      (some { State.reset with a := 0xAB, x := 0x01, flagN := true, mem := [(0x0000, 0x99), (0x00FF, 0x34), (0x0100, 0x12), (0x1234, 0xAB), (0x9934, 0xCD)] },
        [.read 0x00FF, .read 0x0100, .read 0x1234]) := by decide

theorem test_L15_ldaIzx :
    ran (.ldaIzx 0xFF) { State.reset with x := 0x01, mem := [(0x0001, 0x30), (0x0100, 0x66), (0x3000, 0x01)] } =
      (some { State.reset with a := 0x01, x := 0x01, mem := [(0x0001, 0x30), (0x0100, 0x66), (0x3000, 0x01)] },
        [.read 0x0000, .read 0x0001, .read 0x3000]) := by decide

theorem test_L16_ldaIzy :
    ran (.ldaIzy 0x20) { State.reset with y := 0x01, mem := [(0x0020, 0x30), (0x0021, 0x40), (0x4031, 0xC3)] } =
      (some { State.reset with a := 0xC3, y := 0x01, flagN := true, mem := [(0x0020, 0x30), (0x0021, 0x40), (0x4031, 0xC3)] },
        [.read 0x0020, .read 0x0021, .read 0x4031]) := by decide

theorem test_L17_ldaIzy :
    ran (.ldaIzy 0xFF) { State.reset with mem := [(0x0000, 0x03), (0x0100, 0x02), (0x0200, 0x21), (0x0300, 0x31)] } =
      (some { State.reset with a := 0x21, mem := [(0x0000, 0x03), (0x0100, 0x02), (0x0200, 0x21), (0x0300, 0x31)] },
        [.read 0x00FF, .read 0x0100, .read 0x0200]) := by decide

theorem test_L20_ldxImm :
    ran (.ldxImm 0x00) { State.reset with x := 0xFF, flagN := true } =
      (some { State.reset with flagZ := true }, []) := by decide

theorem test_L21_ldxZp :
    ran (.ldxZp 0x10) { State.reset with mem := [(0x0010, 0x80)] } =
      (some { State.reset with x := 0x80, flagN := true, mem := [(0x0010, 0x80)] }, [.read 0x0010]) := by decide

theorem test_L22_ldxZpy :
    ran (.ldxZpy 0xF0) { State.reset with x := 0x55, y := 0x20, mem := [(0x0010, 0x0F), (0x0110, 0xEE)] } =
      (some { State.reset with x := 0x0F, y := 0x20, mem := [(0x0010, 0x0F), (0x0110, 0xEE)] }, [.read 0x0010]) := by decide

theorem test_L23_ldxAbs :
    ran (.ldxAbs 0xC000) { State.reset with flagZ := true, flagN := true, mem := [(0xC000, 0x7F)] } =
      (some { State.reset with x := 0x7F, mem := [(0xC000, 0x7F)] }, [.read 0xC000]) := by decide

theorem test_L24_ldxAby :
    ran (.ldxAby 0xFFF0) { State.reset with y := 0x10, mem := [(0x0000, 0xF0)] } =
      (some { State.reset with x := 0xF0, y := 0x10, flagN := true, mem := [(0x0000, 0xF0)] }, [.read 0x0000]) := by decide

theorem test_L25_ldyImm :
    ran (.ldyImm 0x01) { State.reset with flagZ := true, flagN := true } =
      (some { State.reset with y := 0x01 }, []) := by decide

theorem test_L26_ldyZp :
    ran (.ldyZp 0xFF) { State.reset with flagN := true } =
      (some { State.reset with flagZ := true }, [.read 0x00FF]) := by decide

theorem test_L27_ldyZpx :
    ran (.ldyZpx 0x01) { State.reset with x := 0xFF, y := 0x09, mem := [(0x0000, 0xFE), (0x0100, 0x11)] } =
      (some { State.reset with x := 0xFF, y := 0xFE, flagN := true, mem := [(0x0000, 0xFE), (0x0100, 0x11)] },
        [.read 0x0000]) := by decide

theorem test_L28_ldyAbs :
    ran (.ldyAbs 0xFFFF) { State.reset with mem := [(0xFFFF, 0x40)] } =
      (some { State.reset with y := 0x40, mem := [(0xFFFF, 0x40)] }, [.read 0xFFFF]) := by decide

theorem test_L29_ldyAbx :
    ran (.ldyAbx 0x00FF) { State.reset with x := 0x02, mem := [(0x0001, 0x99), (0x0101, 0x55)] } =
      (some { State.reset with x := 0x02, y := 0x55, mem := [(0x0001, 0x99), (0x0101, 0x55)] }, [.read 0x0101]) := by decide

theorem test_S1_staZp :
    ran (.staZp 0x10) { State.reset with a := 0x5A, flagZ := true, flagN := true } =
      (some { State.reset with a := 0x5A, flagZ := true, flagN := true, mem := [(0x0010, 0x5A)] },
        [.write 0x0010 0x5A]) := by decide

theorem test_S2_staZp :
    ran (.staZp 0x10) State.reset =
      (some State.reset, [.write 0x0010 0x00]) := by decide

theorem test_S3_staZpx :
    ran (.staZpx 0xFF) { State.reset with a := 0x80, x := 0x02, flagZ := true } =
      (some { State.reset with a := 0x80, x := 0x02, flagZ := true, mem := [(0x0001, 0x80)] }, [.write 0x0001 0x80]) := by decide

theorem test_S4_staZpx :
    ran (.staZpx 0xF0) { State.reset with a := 0x11, x := 0x20 } =
      (some { State.reset with a := 0x11, x := 0x20, mem := [(0x0010, 0x11)] }, [.write 0x0010 0x11]) := by decide

theorem test_S5_staAbs :
    ran (.staAbs 0x1234) { State.reset with a := 0xFF, flagZ := true } =
      (some { State.reset with a := 0xFF, flagZ := true, mem := [(0x1234, 0xFF)] }, [.write 0x1234 0xFF]) := by decide

theorem test_S6_staAbx :
    ran (.staAbx 0xFFFF) { State.reset with a := 0x42, x := 0x01 } =
      (some { State.reset with a := 0x42, x := 0x01, mem := [(0x0000, 0x42)] }, [.write 0x0000 0x42]) := by decide

theorem test_S7_staAby :
    ran (.staAby 0x2000) { State.reset with a := 0x24, y := 0xFF } =
      (some { State.reset with a := 0x24, y := 0xFF, mem := [(0x20FF, 0x24)] }, [.write 0x20FF 0x24]) := by decide

theorem test_S8_staIzx :
    ran (.staIzx 0x20) { State.reset with a := 0x99, x := 0x04, mem := [(0x0024, 0x74), (0x0025, 0x20)] } =
      (some { State.reset with a := 0x99, x := 0x04, mem := [(0x0024, 0x74), (0x0025, 0x20), (0x2074, 0x99)] },
        [.read 0x0024, .read 0x0025, .write 0x2074 0x99]) := by decide

theorem test_S9_staIzx :
    ran (.staIzx 0xFE) { State.reset with a := 0x01, x := 0x01, mem := [(0x0000, 0x99), (0x00FF, 0x34), (0x0100, 0x12)] } =
      (some { State.reset with a := 0x01, x := 0x01, mem := [(0x0000, 0x99), (0x00FF, 0x34), (0x0100, 0x12), (0x1234, 0x01)] },
        [.read 0x00FF, .read 0x0100, .write 0x1234 0x01]) := by decide

theorem test_S10_staIzy :
    ran (.staIzy 0x20) { State.reset with a := 0xC3, x := 0x77, y := 0x01, mem := [(0x0020, 0x30), (0x0021, 0x40)] } =
      (some { State.reset with a := 0xC3, x := 0x77, y := 0x01, mem := [(0x0020, 0x30), (0x0021, 0x40), (0x4031, 0xC3)] },
        [.read 0x0020, .read 0x0021, .write 0x4031 0xC3]) := by decide

theorem test_S11_staIzy :
    ran (.staIzy 0x20) { State.reset with a := 0xEE, y := 0x01, mem := [(0x0020, 0x1F)] } =
      (some { State.reset with a := 0xEE, y := 0x01, mem := [(0x0020, 0xEE)] },
        [.read 0x0020, .read 0x0021, .write 0x0020 0xEE]) := by decide

theorem test_S13_styZp :
    ran (.styZp 0x10) { State.reset with y := 0x33, flagZ := true, flagN := true } =
      (some { State.reset with y := 0x33, flagZ := true, flagN := true, mem := [(0x0010, 0x33)] },
        [.write 0x0010 0x33]) := by decide

theorem test_S15_styZp :
    ran (.styZp 0xFF) { State.reset with y := 0x80, flagZ := true } =
      (some { State.reset with y := 0x80, flagZ := true, mem := [(0x00FF, 0x80)] }, [.write 0x00FF 0x80]) := by decide

theorem test_S16_styZpx :
    ran (.styZpx 0xFF) { State.reset with x := 0x02, y := 0x44 } =
      (some { State.reset with x := 0x02, y := 0x44, mem := [(0x0001, 0x44)] }, [.write 0x0001 0x44]) := by decide

theorem test_S17_styAbs :
    ran (.styAbs 0xFFFF) { State.reset with y := 0x7E } =
      (some { State.reset with y := 0x7E, mem := [(0xFFFF, 0x7E)] }, [.write 0xFFFF 0x7E]) := by decide

theorem test_S18_stxZp :
    ran (.stxZp 0x10) { State.reset with x := 0xAB } =
      (some { State.reset with x := 0xAB, mem := [(0x0010, 0xAB)] }, [.write 0x0010 0xAB]) := by decide

theorem test_S19_stxZpy :
    ran (.stxZpy 0xFF) { State.reset with x := 0x12, y := 0x02 } =
      (some { State.reset with x := 0x12, y := 0x02, mem := [(0x0001, 0x12)] }, [.write 0x0001 0x12]) := by decide

theorem test_S20_stxAbs :
    ran (.stxAbs 0x0000) { State.reset with x := 0xFE } =
      (some { State.reset with x := 0xFE, mem := [(0x0000, 0xFE)] }, [.write 0x0000 0xFE]) := by decide

theorem test_T1_tax :
    ran .tax { State.reset with a := 0x80, flagZ := true } =
      (some { State.reset with a := 0x80, x := 0x80, flagN := true }, []) := by decide

theorem test_T2_tax :
    ran .tax { State.reset with x := 0xFF, flagN := true } =
      (some { State.reset with flagZ := true }, []) := by decide

theorem test_T3_tay :
    ran .tay { State.reset with a := 0x7F, flagZ := true, flagN := true } =
      (some { State.reset with a := 0x7F, y := 0x7F }, []) := by decide

theorem test_T4_txa :
    ran .txa { State.reset with x := 0xFF, flagZ := true } =
      (some { State.reset with a := 0xFF, x := 0xFF, flagN := true }, []) := by decide

theorem test_T5_tya :
    ran .tya { State.reset with a := 0x55, flagN := true } =
      (some { State.reset with flagZ := true }, []) := by decide

theorem test_T6_tya :
    ran .tya { State.reset with y := 0x01, flagZ := true, flagN := true } =
      (some { State.reset with a := 0x01, y := 0x01 }, []) := by decide

theorem test_T7_tsx :
    ran .tsx { State.reset with x := 0x55, flagN := true } =
      (some { State.reset with flagN := true }, []) := by decide

theorem test_T8_tsx :
    ran .tsx { State.reset with sp := 0x80, flagZ := true } =
      (some { State.reset with x := 0x80, sp := 0x80, flagZ := true }, []) := by decide

theorem test_T10_txs :
    ran .txs { State.reset with x := 0x80, flagZ := true } =
      (some { State.reset with x := 0x80, sp := 0x80, flagN := true }, []) := by decide

theorem test_T11_txs :
    ran .txs { State.reset with sp := 0xFD, flagN := true } =
      (some { State.reset with flagZ := true }, []) := by decide

/-! ## The dispatcher (vectors K) -/

theorem test_K1_pc_wraps :
    after (step { State.reset with pc := 0xFFFF, mem := [(0x0000, 0x5A), (0xFFFF, 0xA9)] }) =
      some { State.reset with pc := 0x0001, a := 0x5A, mem := [(0x0000, 0x5A), (0xFFFF, 0xA9)] } := by decide

theorem test_K2_third_byte_wraps :
    after (step { State.reset with pc := 0xFFFE, mem := [(0x0000, 0x30), (0x3000, 0x80), (0xFFFE, 0xAD)] }) =
      some { State.reset with pc := 0x0001, a := 0x80, flagN := true, mem := [(0x0000, 0x30), (0x3000, 0x80), (0xFFFE, 0xAD)] } := by
  decide

theorem test_K3_undefined_byte_is_refused :
    refusal (step { State.reset with pc := 0x8000 }) = some (.undecodable (.undefinedOpcode 0x00)) := by decide

theorem test_K4_store_over_own_operand :
    after (step { State.reset with pc := 0x8000, a := 0x77, mem := [(0x8000, 0x8D), (0x8001, 0x01), (0x8002, 0x80)] }) =
      some { State.reset with pc := 0x8003, a := 0x77, mem := [(0x8000, 0x8D), (0x8001, 0x77), (0x8002, 0x80)] } := by decide

/-- The second step of K5: the byte the first step stored is fetched. -/
theorem test_K5_stored_byte_is_fetched :
    after (step { State.reset with pc := 0x8003, a := 0xAA, mem := [(0x8000, 0x8D), (0x8001, 0x03), (0x8002, 0x80), (0x8003, 0xAA)] }) =
      some { State.reset with pc := 0x8004, a := 0xAA, x := 0xAA, flagN := true,
                              mem := [(0x8000, 0x8D), (0x8001, 0x03), (0x8002, 0x80), (0x8003, 0xAA)] } := by decide

theorem test_K6_one_byte_instruction :
    after (step { State.reset with pc := 0x8000, sp := 0x9C, mem := [(0x8000, 0xBA)] }) =
      some { State.reset with pc := 0x8001, sp := 0x9C, x := 0x9C, mem := [(0x8000, 0xBA)] } := by decide

theorem test_withFetchWord_is_run_after_reset :
    after (step (State.reset.withFetchWord 16 0x80A9)) =
      some { State.reset with pc := 0x0002, a := 0x80, flagN := true, mem := [(0x0000, 0xA9), (0x0001, 0x80)] } := by decide

/-- With nothing placed the first step from reset is refused (assumption log 4). -/
theorem test_reset_runs_nothing : refusal (step State.reset) = some (.undecodable (.undefinedOpcode 0x00)) := by decide

/-! ## Witnesses: hypotheses and clauses of the statements are met -/

theorem witness_DecodedBytesAreTheEncoding : decode [0xA9, 0x80, 0x7F] = .ok (.ldaImm 0x80, [0x7F]) := by decide

theorem witness_TermIsInstruction :
    (Instr.toTerm (.ldaImm 0xFF) = ⟨.lda, .imm, .byte 0xFF⟩ ∧ (⟨.lda, .imm, .byte 0xFF⟩ : Term).wf = true) ∧
      (⟨.lda, .imm, .byte 0x100⟩ : Term).wf = false := by decide

theorem witness_WordReadIsLittleEndianAndWraps :
    0x1FFFF % 65536 = 0xFFFF ∧ Memory.readWord [(0x0000, 0x12), (0xFFFF, 0x34)] 0x1FFFF = 0x1234 := by decide

theorem witness_ByteWriteStoresOneByte : 0x0001 % 65536 ≠ 0x10000 % 65536 ∧ 0xFFFF % 65536 ≠ 0x10000 % 65536 := by decide

theorem witness_WordWriteStoresTwoBytes :
    0xFFFF ≤ 0xFFFF ∧ 0x0000 ≤ 0xFFFF ∧ 0x1FFFF % 65536 = 0xFFFF ∧ 0x0001 % 65536 ≠ 0x1FFFF % 65536 ∧
      0x0001 % 65536 ≠ (0x1FFFF + 1) % 65536 ∧ 0xFFFE % 65536 ≠ 0x1FFFF % 65536 := by decide

/-- Two canonical memories that read alike, built in two orders. -/
theorem witness_CanonicalMemoriesThatReadAlikeAreEqual :
    ∃ m n : Memory, m = Memory.store (Memory.store [] 5 0x01) 7 0x02 ∧ n = Memory.store (Memory.store [] 7 0x02) 5 0x01 ∧
      m.wf = true ∧ n.wf = true ∧ ∀ addr < 65536, m.readByte addr = n.readByte addr :=
  ⟨_, _, rfl, rfl, rfl, rfl, fun _ _ => rfl⟩

/-- The three outcomes of `SetNZ`, at both ends of each range. -/
theorem witness_SetNZHasThreeOutcomes :
    [((0x00 : Byte), false, true), (0x01, false, false), (0x7F, false, false), (0x80, true, false), (0xFF, true, false)].all
      (fun c => setNZ c.1 { State.reset with flagN := true, flagZ := true } ==
        { State.reset with flagN := c.2.1, flagZ := c.2.2 }) = true := by decide

theorem witness_FlagHelpersTestTheResultAtItsWidth :
    (checkNegative (0x80 : BitVec (7 + 1)) State.reset).flagN = true ∧ (checkNegative (0x0080 : BitVec (15 + 1)) State.reset).flagN = false ∧
      (checkNegative (0x8000 : BitVec (15 + 1)) State.reset).flagN = true ∧ (checkZero (0x0100 : BitVec (15 + 1)) State.reset).flagZ = false ∧
      (checkZero (0x0000 : BitVec (15 + 1)) State.reset).flagZ = true := by decide

/-- Both clauses: a transfer that writes N and Z, and TSX, which does not. -/
theorem witness_NAndZAreWrittenByLoadsAndTransfersOnly :
    exec .txs State.reset = .next { State.reset with flagZ := true } ∧ Instr.mnemonic .txs ∈ writesNZ ∧
      exec .tsx State.reset = .next State.reset ∧ Instr.mnemonic .tsx ∉ writesNZ ∧ Instr.mnemonic (.staZp 0x10) ∉ writesNZ :=
  ⟨rfl, by decide, rfl, by decide, by decide⟩

theorem witness_InertFlagsAreNeitherReadNorWritten :
    exec (.ldaImm 0x01) { State.reset with flagC := true, flagV := true } =
      .next { State.reset with a := 0x01, flagC := true, flagV := true } := rfl

/-- The clauses: TXS, TSX, and an instruction that is neither. -/
theorem witness_StackPointerIsTouchedByTsxAndTxsOnly :
    exec .txs { State.reset with x := 0x01 } = .next { State.reset with x := 0x01, sp := 0x01 } ∧
      exec .tsx { State.reset with sp := 0x01 } = .next { State.reset with sp := 0x01, x := 0x01 } ∧
      exec .tay State.reset = .next { State.reset with flagZ := true } ∧ Instr.tay ≠ .tsx ∧ Instr.tay ≠ .txs ∧ Instr.tsx ≠ .txs :=
  ⟨rfl, rfl, rfl, by decide, by decide, by decide⟩

theorem witness_ExecNeitherReadsNorWritesPC :
    exec .tax { State.reset with a := 0x01, pc := 0x8000 } = .next { State.reset with a := 0x01, x := 0x01, pc := 0x8000 } := rfl

/-- Each clause of the traffic table has an instruction: one that writes the register unread, one that leaves it unread, and so on. -/
theorem witness_RegisterTrafficIsTheTable :
    (¬ readsA (.ldaImm 0x01) ∧ writesA (.ldaImm 0x01) ∧ ¬ readsA (.ldxImm 0x01) ∧ ¬ writesA (.ldxImm 0x01)) ∧
      (¬ readsX (.ldxZpy 0x01) ∧ writesX (.ldxZpy 0x01) ∧ ¬ readsX (.ldaIzy 0x01) ∧ ¬ writesX (.ldaIzy 0x01)) ∧
      (¬ readsY (.ldyZpx 0x01) ∧ writesY (.ldyZpx 0x01) ∧ ¬ readsY (.ldaIzx 0x01) ∧ ¬ writesY (.ldaIzx 0x01)) ∧
      (readsA (.staZp 0x01) ∧ readsX (.staZpx 0x01) ∧ readsY (.staAby 0x01)) ∧
      Instr.mnemonic (.ldaImm 0x01) ∉ stores ∧ Instr.mnemonic .tsx ∉ writesNZ ∧ exec .tsx State.reset = .next State.reset := by
  unfold readsA readsX readsY writesA writesX writesY
  exact ⟨by decide, by decide, by decide, by decide, by decide, by decide, rfl⟩

/-- An indirect load, an indirect store and a direct load, each with the accesses the clauses speak of. -/
theorem witness_AccessesComeInTheSpecsOrder :
    accesses (.ldaIzx 0xFF) State.reset = [.read 0x00FF, .read 0x0100, .read 0x0000] ∧
      accesses (.staIzy 0xFF) State.reset = [.read 0x00FF, .read 0x0100, .write 0x0000 0x00] ∧
      accesses (.ldaZp 0x10) State.reset = [.read 0x0010] ∧ accesses (.ldaImm 0x10) State.reset = [] := by decide

/-- A state about to run `LDA $10` with 0x42 at 0x0010, and a byte that it does not read. -/
def loadState (elsewhere : Byte) : State :=
  { State.reset with mem := [(0x0000, 0xA5), (0x0001, 0x10), (0x0010, 0x42), (0x2000, elsewhere)] }

/-- Two states with one register file and the same bytes read, whose memories differ. -/
theorem witness_StepDependsOnlyOnRegistersAndBytesRead :
    SameRegisterFile (loadState 0x01) (loadState 0x02) ∧
      SameBytesRead (stepAccesses (loadState 0x01)) (loadState 0x01).mem (loadState 0x02).mem ∧
      (∃ t, step (loadState 0x01) = .next t) ∧ loadState 0x01 ≠ loadState 0x02 := by
  refine ⟨by unfold SameRegisterFile; decide, ?_, ⟨_, rfl⟩, by decide⟩
  intro addr h
  rw [show stepAccesses (loadState 0x01) = [.read 0x0000, .read 0x0001, .read 0x0010] by decide] at h
  simp only [List.mem_cons, Access.read.injEq, List.not_mem_nil, or_false] at h
  rcases h with rfl | rfl | rfl <;> decide

/-- A state about to run `STA $10`. -/
def storeState : State := { State.reset with a := 0x5A, mem := [(0x0000, 0x85), (0x0001, 0x10)] }

theorem witness_StepChangesOnlyTheBytesItWrites :
    (∃ t, step storeState = .next t) ∧ Access.write 0x0010 0x5A ∈ stepAccesses storeState ∧
      ∀ w v, Access.write w v ∈ stepAccesses storeState → w.toNat ≠ 0x0011 % 65536 := by
  refine ⟨⟨_, rfl⟩, by decide, ?_⟩
  intro w v h
  rw [show stepAccesses storeState = [.read 0x0000, .read 0x0001, .write 0x0010 0x5A] by decide] at h
  simp only [List.mem_cons, Access.write.injEq, List.not_mem_nil, or_false, reduceCtorEq, false_or] at h
  rw [h.1]
  decide

/-- `STA ($20),Y` and `LDA ($20),Y`, whose address is not a byte of the pointer. -/
theorem witness_StoreThenLoadReturnsTheStoredByte_indirect :
    Paired (.staIzy 0x20) (.ldaIzy 0x20) { State.reset with a := 0x5A, mem := [(0x0020, 0x30), (0x0021, 0x40)] } 0x4030 0x5A ∧
      ∃ t, exec (.staIzy 0x20) { State.reset with a := 0x5A, mem := [(0x0020, 0x30), (0x0021, 0x40)] } = .next t :=
  ⟨⟨[.read 0x0020, .read 0x0021], by decide, by decide, by decide, by decide, by decide, by decide⟩, ⟨_, rfl⟩⟩

/-- `STX $FF,Y` and `LDX $FF,Y`. -/
theorem witness_StoreThenLoadReturnsTheStoredByte_direct :
    Paired (.stxZpy 0xFF) (.ldxZpy 0xFF) { State.reset with x := 0x12, y := 0x02 } 0x0001 0x12 ∧
      ∃ t, exec (.stxZpy 0xFF) { State.reset with x := 0x12, y := 0x02 } = .next t :=
  ⟨⟨[], by decide, by decide, by decide, by decide, by decide, by decide⟩, ⟨_, rfl⟩⟩

theorem witness_StepRunsTheDecodedInstruction :
    decode [storeState.mem.readByte storeState.pc.toNat, storeState.mem.readByte (storeState.pc.toNat + 1),
      storeState.mem.readByte (storeState.pc.toNat + 2)] = .ok (.staZp 0x10, [0x00]) := by decide

/-- The clauses of the dispatcher: no opcode at PC, and an opcode of each length. -/
theorem witness_StepIsTheReferenceDispatcher :
    opcodeLength 0x00 = none ∧ opcodeLength (State.reset.mem.readByte State.reset.pc.toNat) = none ∧ opcodeLength 0xAA = some 1 ∧
      opcodeLength (storeState.mem.readByte storeState.pc.toNat) = some 2 ∧ opcodeLength 0xAD = some 3 := by decide

/-- Both clauses about the top of the address space are met, and such a step has a next state. -/
theorem witness_StepAdvancesPCByTheLength :
    opcodeLength (Memory.readByte [(0xFFFF, 0xA9)] 0xFFFF) = some 2 ∧ opcodeLength (Memory.readByte [(0xFFFE, 0xAD)] 0xFFFE) = some 3 ∧
      (after (step { State.reset with pc := 0xFFFF, mem := [(0xFFFF, 0xA9)] })).isSome ∧
      (after (step { State.reset with pc := 0xFFFE, mem := [(0xFFFE, 0xAD)] })).isSome := by decide

/-- The bytes where the ranges of R58 meet the map of R56. -/
theorem witness_UndefinedOpcodesAreRefused :
    [0x00, 0x80, 0x82, 0xBF, 0xC0, 0xFF].all undefinedByte = true ∧ [0x81, 0x84, 0x8A, 0x9D, 0xA0, 0xBE].all (fun n => !undefinedByte n) = true ∧
      undefinedByte (State.reset.mem.readByte State.reset.pc.toNat).toNat = true ∧
      undefinedByte (storeState.mem.readByte storeState.pc.toNat).toNat = false := by decide

theorem witness_PlacedWordIsTheNextInstruction :
    decodeTableWord 8 0xAA = some .tax ∧ decodeTableWord 24 0xFFFFBD = some (.ldaAbx 0xFFFF) := by decide

theorem witness_StepKeepsMemoryCanonical : storeState.mem.wf = true ∧ ∃ t, step storeState = .next t := ⟨by decide, ⟨_, rfl⟩⟩

/-- A launch state: the image is written in order and its values are reduced, as the registers' are. -/
theorem witness_LaunchStates :
    Launch.state ⟨[(0x10000, 0x1A9), (0x0000, 0x85)], 0x101, 0, 0, 0, 0x18000, 3, 0, 0, 0, 0, 0, 0⟩ =
      { State.reset with a := 0x01, pc := 0x8000, flagC := true, mem := [(0x0000, 0x85)] } := by decide

theorem witness_SetAccessorsWriteTheNamedItemOnly :
    RegName.a ≠ .x ∧ FlagName.c ≠ .z ∧ setReg .a 0x100 { State.reset with a := 0x55, flagZ := false } = State.reset ∧
      setReg .pc 0x1FFFF State.reset = { State.reset with pc := 0xFFFF } := by decide

/-- A run of no step and a run of one. -/
theorem witness_CompletesIn :
    CompletesIn 0 storeState storeState ∧
      CompletesIn 1 storeState { storeState with pc := 0x0002, mem := [(0x0000, 0x85), (0x0001, 0x10), (0x0010, 0x5A)] } := ⟨rfl, rfl⟩

end Sys2Proof.Tests
end

section
/-! O32: what a step reads. Two states with one register file differ in memory alone, so the second is the first with another
memory in place (`writeMem`). The fetch and each instruction are compared with that memory in place, and only the bytes they list
as read are asked to agree. -/

namespace Sys2Proof.Machine

/-! ### States that differ in memory alone -/

theorem sameRegisterFile_iff {s t : State} : SameRegisterFile s t ↔ t = s.writeMem t.mem := by
  cases s
  cases t
  simp only [SameRegisterFile, State.writeMem, State.mk.injEq, and_true, eq_comm]

theorem sameRegisterFile_writeMem (s : State) (m : Memory) : SameRegisterFile s (s.writeMem m) :=
  sameRegisterFile_iff.2 rfl

theorem advancePC_writeMem (len : Nat) (m : Memory) (s : State) :
    advancePC len (s.writeMem m) = (advancePC len s).writeMem m := rfl

/-! ### Bytes read -/

theorem sameBytesRead_append {acc acc' : List Access} {m n : Memory} :
    SameBytesRead (acc ++ acc') m n ↔ SameBytesRead acc m n ∧ SameBytesRead acc' m n := by
  simp only [SameBytesRead, List.mem_append, or_imp, forall_and]

theorem sameBytesRead_cons_read {p : Word} {acc : List Access} {m n : Memory} :
    SameBytesRead (.read p :: acc) m n ↔ m.readByte p.toNat = n.readByte p.toNat ∧ SameBytesRead acc m n := by
  simp only [SameBytesRead, List.mem_cons, Access.read.injEq, or_imp, forall_and, forall_eq]

/-- R31: an address summed as a word and one summed as a number name the same byte. -/
theorem readByte_add (m : Memory) (p k : Word) : m.readByte (p + k).toNat = m.readByte (p.toNat + k.toNat) := by
  simp [Memory.readByte, Config.memSize, BitVec.toNat_add]

/-- A pointer depends only on the two bytes it is read from (R33). -/
theorem pointerAt_writeMem {p : Word} {s : State} {m : Memory} (h : SameBytesRead (pointerReads p) s.mem m) :
    pointerAt p (s.writeMem m) = pointerAt p s := by
  rw [pointerReads, sameBytesRead_cons_read, sameBytesRead_cons_read, readByte_add, readByte_add] at h
  obtain ⟨hlow, hhigh, -⟩ := h
  exact congrArg₂ operandWord hlow.symm hhigh.symm

theorem izxEA_writeMem {b1 : Byte} {s : State} {m : Memory}
    (h : SameBytesRead (pointerReads (izxPointer b1 s)) s.mem m) : izxEA b1 (s.writeMem m) = izxEA b1 s :=
  pointerAt_writeMem h

theorem izyEA_writeMem {b1 : Byte} {s : State} {m : Memory}
    (h : SameBytesRead (pointerReads (izyPointer b1)) s.mem m) : izyEA b1 (s.writeMem m) = izyEA b1 s :=
  congrArg (· + zext16 s.y) (pointerAt_writeMem h)

/-! ### The fetch -/

section Fetch

variable {s : State} {m : Memory} (h : SameBytesRead (fetchAccesses s) s.mem m)
include h

theorem fetchOpcode_writeMem : fetchOpcode (s.writeMem m) = fetchOpcode s := by
  have hpc : Access.read s.pc ∈ fetchAccesses s := by
    unfold fetchAccesses
    split <;> exact List.mem_cons_self
  exact (h s.pc hpc).symm

theorem fetchAccesses_writeMem : fetchAccesses (s.writeMem m) = fetchAccesses s := by
  simp only [fetchAccesses, fetchOpcode_writeMem h, writeMem_pc]

theorem fetchBytes_writeMem : fetchBytes (s.writeMem m) = fetchBytes s := by
  simp only [fetchBytes, fetchOpcode_writeMem h, writeMem_pc, writeMem_mem]
  split
  case h_1 two =>
    simp only [fetchAccesses, two, sameBytesRead_cons_read, readByte_add] at h
    obtain ⟨-, h1, -⟩ := h
    exact congrArg (fun b => [fetchOpcode s, b]) h1.symm
  case h_2 three =>
    simp only [fetchAccesses, three, sameBytesRead_cons_read, readByte_add] at h
    obtain ⟨-, h1, h2, -⟩ := h
    exact congrArg₂ (fun b c => [fetchOpcode s, b, c]) h1.symm h2.symm
  case h_3 => rfl

theorem fetch_writeMem : fetch (s.writeMem m) = fetch s := by
  simp only [fetch, fetchBytes_writeMem h]

end Fetch

/-! ### One instruction -/

/-- Both outcomes are next states with one register file, and the memories after agree wherever `m` and `n` do. -/
def AlikeOutcomes (m n : Memory) (o₁ o₂ : Host.Outcome State Fault Refusal) : Prop :=
  ∃ t₁ t₂, o₁ = .next t₁ ∧ o₂ = .next t₂ ∧ SameRegisterFile t₁ t₂ ∧
    ∀ addr, m.readByte addr = n.readByte addr → t₁.mem.readByte addr = t₂.mem.readByte addr

/-- The operation works on the register file alone: it commutes with another memory put in place. -/
def OnRegisters (f : State → State) : Prop := ∀ (s : State) (m : Memory), f (s.writeMem m) = (f s).writeMem m

theorem onRegisters_putA (v : Byte) : OnRegisters (putA v) := fun _ _ => rfl

theorem onRegisters_putX (v : Byte) : OnRegisters (putX v) := fun _ _ => rfl

theorem onRegisters_putY (v : Byte) : OnRegisters (putY v) := fun _ _ => rfl

theorem OnRegisters.mem_eq {f : State → State} (hf : OnRegisters f) (s : State) : (f s).mem = s.mem := by
  calc (f s).mem = ((f s).writeMem s.mem).mem := congrArg State.mem (hf s s.mem)
    _ = s.mem := rfl

/-- The shape of the immediate loads and the transfers: no byte is read and none is written. -/
theorem alikeOutcomes_onRegisters (f : State → State) (hf : OnRegisters f) (s : State) (m : Memory) :
    AlikeOutcomes s.mem m (.next (f s)) (.next (f (s.writeMem m))) := by
  refine ⟨f s, (f s).writeMem m, rfl, by rw [hf], sameRegisterFile_writeMem _ _, fun addr agree => ?_⟩
  rw [hf.mem_eq, writeMem_mem, agree]

/-- The shape of the loads (R100): the byte at one address is read and put in a register. -/
theorem alikeOutcomes_load {put : Byte → State → State} (hput : ∀ v, OnRegisters (put v)) {s : State} {m : Memory}
    {ea ea' : Word} (hea : ea' = ea) (h : SameBytesRead [.read ea] s.mem m) :
    AlikeOutcomes s.mem m (.next (put (memValue ea s) s)) (.next (put (memValue ea' (s.writeMem m)) (s.writeMem m))) := by
  have hv : memValue ea (s.writeMem m) = memValue ea s := (sameBytesRead_cons_read.1 h).1.symm
  rw [hea, hv]
  exact alikeOutcomes_onRegisters _ (hput _) s m

/-- The shape of the stores (R130): one byte is written in both memories, at one address. -/
theorem alikeOutcomes_store {s : State} {m : Memory} {ea ea' : Word} (hea : ea' = ea) (v : Byte) :
    AlikeOutcomes s.mem m (.next (storeByte ea v s)) (.next (storeByte ea' v (s.writeMem m))) := by
  refine ⟨_, _, rfl, rfl, sameRegisterFile_writeMem _ _, fun addr agree => ?_⟩
  rw [hea, readByte_storeByte, readByte_storeByte, writeMem_mem, agree]

section Instruction

variable {i : Instr} {s : State} {m : Memory} (h : SameBytesRead (accesses i s) s.mem m)
include h

/-- The accesses of an instruction depend on memory only through its pointer, whose bytes are among them. -/
theorem accesses_writeMem : accesses i (s.writeMem m) = accesses i s := by
  cases i
  case staIzx b1 | ldaIzx b1 =>
    have hea := izxEA_writeMem (sameBytesRead_append.1 h).1
    simp only [accesses, hea, writeMem_a, izxPointer, writeMem_x]
  case staIzy b1 | ldaIzy b1 =>
    have hea := izyEA_writeMem (sameBytesRead_append.1 h).1
    simp only [accesses, hea, writeMem_a]
  all_goals rfl

/-- Every instruction acts alike on two memories that agree at the bytes it reads. -/
theorem exec_writeMem : AlikeOutcomes s.mem m (exec i s) (exec i (s.writeMem m)) := by
  cases i
  case ldaImm b1 => exact alikeOutcomes_onRegisters (putA b1) (onRegisters_putA b1) s m
  case ldxImm b1 => exact alikeOutcomes_onRegisters (putX b1) (onRegisters_putX b1) s m
  case ldyImm b1 => exact alikeOutcomes_onRegisters (putY b1) (onRegisters_putY b1) s m
  case tax => exact alikeOutcomes_onRegisters (fun u => putX u.a u) (fun _ _ => rfl) s m
  case tay => exact alikeOutcomes_onRegisters (fun u => putY u.a u) (fun _ _ => rfl) s m
  case txa => exact alikeOutcomes_onRegisters (fun u => putA u.x u) (fun _ _ => rfl) s m
  case tya => exact alikeOutcomes_onRegisters (fun u => putA u.y u) (fun _ _ => rfl) s m
  case tsx => exact alikeOutcomes_onRegisters (fun u => u.writeX u.sp) (fun _ _ => rfl) s m
  case txs => exact alikeOutcomes_onRegisters (fun u => putSP u.x u) (fun _ _ => rfl) s m
  case ldaZp | ldaZpx | ldaAbs | ldaAbx | ldaAby => exact alikeOutcomes_load onRegisters_putA rfl h
  case ldxZp | ldxZpy | ldxAbs | ldxAby => exact alikeOutcomes_load onRegisters_putX rfl h
  case ldyZp | ldyZpx | ldyAbs | ldyAbx => exact alikeOutcomes_load onRegisters_putY rfl h
  case ldaIzx =>
    obtain ⟨hpointer, hread⟩ := sameBytesRead_append.1 h
    exact alikeOutcomes_load onRegisters_putA (izxEA_writeMem hpointer) hread
  case ldaIzy =>
    obtain ⟨hpointer, hread⟩ := sameBytesRead_append.1 h
    exact alikeOutcomes_load onRegisters_putA (izyEA_writeMem hpointer) hread
  case staZp | staZpx | staAbs | staAbx | staAby => exact alikeOutcomes_store rfl s.a
  case stxZp | stxZpy | stxAbs => exact alikeOutcomes_store rfl s.x
  case styZp | styZpx | styAbs => exact alikeOutcomes_store rfl s.y
  case staIzx => exact alikeOutcomes_store (izxEA_writeMem (sameBytesRead_append.1 h).1) s.a
  case staIzy => exact alikeOutcomes_store (izyEA_writeMem (sameBytesRead_append.1 h).1) s.a

end Instruction

/-! ### The step -/

theorem stepAccesses_of_fetch {s : State} {i : Instr} (h : fetch s = .ok i) :
    stepAccesses s = fetchAccesses s ++ accesses i (advancePC (instrLength i) s) := by
  simp only [stepAccesses, h]

/-- Settles O32: the fetch, the list of accesses and the instruction are each unmoved by the memory put in place. -/
theorem stepDependsOnlyOnRegistersAndBytesRead : Obligations.StepDependsOnlyOnRegistersAndBytesRead := by
  intro s₁ s₂ t₁ hregs hread hstep
  rw [sameRegisterFile_iff.1 hregs]
  generalize s₂.mem = m at hread ⊢
  obtain ⟨i, hfetch, hexec⟩ := step_next hstep
  rw [stepAccesses_of_fetch hfetch] at hread ⊢
  obtain ⟨hreadFetch, hreadExec⟩ := sameBytesRead_append.1 hread
  have hfetch' : fetch (s₁.writeMem m) = .ok i := (fetch_writeMem hreadFetch).trans hfetch
  rw [step_of_fetch hfetch', stepAccesses_of_fetch hfetch', advancePC_writeMem, fetchAccesses_writeMem hreadFetch,
    accesses_writeMem hreadExec]
  obtain ⟨t, t₂, hexec₁, hexec₂, hsame, hmem⟩ := exec_writeMem hreadExec
  obtain rfl : t = t₁ := by simpa [hexec] using hexec₁.symm
  exact ⟨t₂, hexec₂, hsame, rfl, hmem⟩

end Sys2Proof.Machine
end

section
/-! O12: the canonical form is unique. The first entry of a canonical memory is the least address that does not read as unlisted,
so two such memories that read alike begin with the same entry. -/

namespace Sys2Proof.Machine

/-- No address below the first that may be listed is listed. -/
theorem lookup_of_lt_wfFrom {m : Memory} {lo a : Nat} (hm : Memory.wfFrom lo m = true) (ha : a < lo) :
    m.lookup a = Memory.unlisted := by
  induction m generalizing lo with
  | nil => rfl
  | cons cell m ih =>
    obtain ⟨k, v⟩ := cell
    obtain ⟨hlo, -, -, hm⟩ := (wfFrom_cons lo k v m).1 hm
    rw [lookup_cons, if_neg (by omega), ih hm (by omega)]

section FirstEntry

variable {lo k : Nat} {v : Byte} {m : Memory} (hm : Memory.wfFrom lo ((k, v) :: m) = true)
include hm

theorem lookup_of_lt_first {a : Nat} (ha : a < k) : Memory.lookup ((k, v) :: m) a = Memory.unlisted := by
  obtain ⟨-, hcell⟩ := (wfFrom_cons lo k v m).1 hm
  exact lookup_of_lt_wfFrom ((wfFrom_cons k k v m).2 ⟨le_rfl, hcell⟩) ha

theorem lookup_first_ne_unlisted : Memory.lookup ((k, v) :: m) k ≠ Memory.unlisted := by
  obtain ⟨-, -, hv, -⟩ := (wfFrom_cons lo k v m).1 hm
  rwa [lookup_cons, if_pos rfl]

theorem first_lt_memSize : k < Config.memSize := by
  obtain ⟨-, hk, -, -⟩ := (wfFrom_cons lo k v m).1 hm
  exact hk

/-- The other memory reads as listed at `k` too, so its first entry is no later. -/
theorem first_le_of_lookup_eq {lo' k' : Nat} {v' : Byte} {n : Memory} (hn : Memory.wfFrom lo' ((k', v') :: n) = true)
    (h : ∀ a < Config.memSize, Memory.lookup ((k, v) :: m) a = Memory.lookup ((k', v') :: n) a) : k' ≤ k := by
  by_contra hlt
  have hunlisted := lookup_of_lt_first hn (Nat.lt_of_not_le hlt)
  exact lookup_first_ne_unlisted hm ((h k (first_lt_memSize hm)).trans hunlisted)

end FirstEntry

theorem eq_nil_of_unlisted {lo : Nat} {m : Memory} (hm : Memory.wfFrom lo m = true)
    (h : ∀ a < Config.memSize, m.lookup a = Memory.unlisted) : m = [] := by
  cases m with
  | nil => rfl
  | cons cell m => exact absurd (h cell.1 (first_lt_memSize hm)) (lookup_first_ne_unlisted hm)

/-- Equal first entries, then equal tails: `k` itself is unlisted in both tails. -/
theorem eq_of_lookup_eq {m n : Memory} {lo lo' : Nat} (hm : Memory.wfFrom lo m = true) (hn : Memory.wfFrom lo' n = true)
    (h : ∀ a < Config.memSize, m.lookup a = n.lookup a) : m = n := by
  induction m generalizing n lo lo' with
  | nil => exact (eq_nil_of_unlisted hn (fun a ha => (h a ha).symm)).symm
  | cons cell m ih =>
    cases n with
    | nil => exact eq_nil_of_unlisted hm h
    | cons cell' n =>
      obtain ⟨k, v⟩ := cell
      obtain ⟨k', v'⟩ := cell'
      obtain ⟨-, hk, -, hmtail⟩ := (wfFrom_cons lo k v m).1 hm
      obtain ⟨-, -, -, hntail⟩ := (wfFrom_cons lo' k' v' n).1 hn
      have hkk' : k = k' :=
        le_antisymm (first_le_of_lookup_eq hn hm fun a ha => (h a ha).symm) (first_le_of_lookup_eq hm hn h)
      subst hkk'
      have hvv' : v = v' := by simpa [lookup_cons] using h k hk
      have htail : ∀ a < Config.memSize, Memory.lookup m a = Memory.lookup n a := by
        intro a ha
        by_cases hak : a = k
        · rw [hak, lookup_of_lt_wfFrom hmtail k.lt_succ_self, lookup_of_lt_wfFrom hntail k.lt_succ_self]
        · simpa [lookup_cons, Ne.symm hak] using h a ha
      rw [hvv', ih hmtail hntail htail]

theorem readByte_of_lt (m : Memory) {addr : Nat} (h : addr < Config.memSize) : m.readByte addr = m.lookup addr := by
  rw [Memory.readByte, Nat.mod_eq_of_lt h]

/-- Settles O12: inside the address space a byte read is a lookup, and lookups fix the list. -/
theorem canonicalMemoriesThatReadAlikeAreEqual : Obligations.CanonicalMemoriesThatReadAlikeAreEqual := by
  intro m n hm hn hread
  refine eq_of_lookup_eq hm hn fun a ha => ?_
  rw [← readByte_of_lt m ha, ← readByte_of_lt n ha]
  exact hread a ha

end Sys2Proof.Machine
end

section
/-! O42: every launch state is canonical, because an image is written byte by byte; and a canonical state is the launch of its own
registers and flags with its own memory as the image. -/

namespace Sys2Proof.Machine

/-- The setters fix every register and flag and leave memory (R22). -/
theorem setAll_eq (l : Launch) (s : State) : setAll l s =
    { a := BitVec.ofNat 8 l.a, x := BitVec.ofNat 8 l.x, y := BitVec.ofNat 8 l.y, sp := BitVec.ofNat 8 l.sp
      pc := BitVec.ofNat 16 l.pc, flagC := bitOf l.flagC, flagZ := bitOf l.flagZ, flagI := bitOf l.flagI
      flagD := bitOf l.flagD, flagB := bitOf l.flagB, flagV := bitOf l.flagV, flagN := bitOf l.flagN, mem := s.mem } := rfl

@[simp] theorem bitOf_toNat (b : Bool) : bitOf b.toNat = b := by cases b <;> rfl

theorem canonicalMemory_preload {s : State} (hs : CanonicalMemory s) (addr value : Nat) :
    CanonicalMemory (preload addr value s) :=
  wf_writeByte hs addr value

theorem canonicalMemory_preloadAll {s : State} (hs : CanonicalMemory s) (image : List (Nat × Nat)) :
    CanonicalMemory (preloadAll image s) := by
  induction image generalizing s with
  | nil => exact hs
  | cons entry image ih => exact ih (canonicalMemory_preload hs entry.1 entry.2)

theorem canonicalMemory_reset : CanonicalMemory State.reset := rfl

theorem canonicalMemory_launch (l : Launch) : CanonicalMemory l.state :=
  canonicalMemory_preloadAll canonicalMemory_reset l.image

/-- The entries of a memory as the bytes of an image. -/
def imageOf (m : Memory) : List (Nat × Nat) := m.map fun cell => (cell.1, cell.2.toNat)

theorem lookup_preload (k : Nat) (v : Byte) (s : State) (hk : k < Config.memSize) (b : Nat) :
    (preload k v.toNat s).mem.lookup b = if b = k then v else s.mem.lookup b := by
  simp [preload, Memory.writeByte, lookup_store, Nat.mod_eq_of_lt hk]

/-- The image of a canonical memory, written over any memory: what it lists it covers, the rest stays. -/
theorem lookup_preloadAll_imageOf {lo : Nat} {m : Memory} (hm : Memory.wfFrom lo m = true) (s : State) (b : Nat) :
    (preloadAll (imageOf m) s).mem.lookup b =
      if m.lookup b = Memory.unlisted then s.mem.lookup b else m.lookup b := by
  induction m generalizing lo s with
  | nil => rfl
  | cons cell m ih =>
    obtain ⟨k, v⟩ := cell
    obtain ⟨-, hk, hv, htail⟩ := (wfFrom_cons lo k v m).1 hm
    have hrest : (preloadAll (imageOf ((k, v) :: m)) s).mem.lookup b = _ := ih htail (preload k v.toNat s)
    rw [hrest, lookup_preload k v s hk, lookup_cons]
    by_cases hb : b = k
    · simp [hb, hv, lookup_of_lt_wfFrom htail k.lt_succ_self]
    · simp [hb, Ne.symm hb]

/-- From zeroed memory, the image of a canonical memory builds that memory. -/
theorem mem_preloadAll_imageOf {m : Memory} (hm : m.wf = true) : (preloadAll (imageOf m) State.reset).mem = m := by
  refine eq_of_lookup_eq (canonicalMemory_preloadAll canonicalMemory_reset (imageOf m)) hm fun a _ => ?_
  rw [lookup_preloadAll_imageOf hm]
  split
  case isTrue hunlisted => exact hunlisted.symm
  case isFalse => rfl

/-- The launch that supplies each register, flag and byte of a state. -/
def launchOf (s : State) : Launch where
  image := imageOf s.mem
  a := s.a.toNat
  x := s.x.toNat
  y := s.y.toNat
  sp := s.sp.toNat
  pc := s.pc.toNat
  flagC := s.flagC.toNat
  flagZ := s.flagZ.toNat
  flagI := s.flagI.toNat
  flagD := s.flagD.toNat
  flagB := s.flagB.toNat
  flagV := s.flagV.toNat
  flagN := s.flagN.toNat

theorem launchOf_state {s : State} (hs : CanonicalMemory s) : (launchOf s).state = s := by
  simp only [Launch.state, setAll_eq, launchOf, BitVec.ofNat_toNat, BitVec.setWidth_eq, bitOf_toNat,
    mem_preloadAll_imageOf hs]

/-- Settles O42: a canonical state is the launch of its own contents, and each launch state is canonical. -/
theorem launchStatesAreAllCanonicalStates : Obligations.LaunchStatesAreAllCanonicalStates := by
  intro s
  constructor
  · intro hs
    exact ⟨launchOf s, launchOf_state hs⟩
  · rintro ⟨l, rfl⟩
    exact canonicalMemory_launch l

end Sys2Proof.Machine
end

section
/-! An instruction by its term (30_encoding.md R64): the format and the operand fix where the data is (40_addressing_modes.md R72 to
R79), the mnemonic what is done with it (10_state.md R26). What an instruction reads and writes is then a question about the ten
formats and the twelve mnemonics, each asked alone. -/

namespace Sys2Proof.Machine

open Claims

/-! ### Format and operand: where the data is -/

/-- The operand byte of a term (R53). -/
def operandB1 : Operand → Byte
  | .byte b1 => BitVec.ofNat 8 b1
  | _ => 0

/-- The operand word of a term (R53). -/
def operandW : Operand → Word
  | .word w => BitVec.ofNat 16 w
  | _ => 0

/-- The effective address of a format (R72 to R79); the two formats without one are given address 0. -/
def addressOf (f : Format) (o : Operand) (s : State) : Word :=
  match f with
  | .imp | .imm => 0
  | .zp => zpEA (operandB1 o)
  | .zpx => zpxEA (operandB1 o) s
  | .zpy => zpyEA (operandB1 o) s
  | .abs => absEA (operandW o)
  | .abx => abxEA (operandW o) s
  | .aby => abyEA (operandW o) s
  | .izx => izxEA (operandB1 o) s
  | .izy => izyEA (operandB1 o) s

/-- The effective value of a format: the operand byte itself (R71), or the byte at the effective address. -/
def valueOf (f : Format) (o : Operand) (s : State) : Byte :=
  match f with
  | .imm => operandB1 o
  | _ => memValue (addressOf f o s) s

/-- The pointer bytes a format reads before its data (R78, R79). -/
def pointerReadsOf (f : Format) (o : Operand) (s : State) : List Access :=
  match f with
  | .izx => pointerReads (izxPointer (operandB1 o) s)
  | .izy => pointerReads (izyPointer (operandB1 o))
  | _ => []

/-- The effective address depends on X and Y through the formats they index, and on memory (R26). -/
theorem addressOf_congr {f : Format} {o : Operand} {s s' : State}
    (hx : f ∈ [Format.zpx, .abx, .izx] → s'.x = s.x) (hy : f ∈ [Format.zpy, .aby, .izy] → s'.y = s.y)
    (hmem : s'.mem = s.mem) : addressOf f o s' = addressOf f o s := by
  cases f
  case zpx | abx | izx =>
    simp only [addressOf, zpxEA, abxEA, izxEA, izxPointer, pointerAt, hx (by decide), hmem]
  case zpy | aby | izy =>
    simp only [addressOf, zpyEA, abyEA, izyEA, pointerAt, hy (by decide), hmem]
  all_goals rfl

theorem valueOf_congr {f : Format} {o : Operand} {s s' : State} (haddr : addressOf f o s' = addressOf f o s)
    (hmem : s'.mem = s.mem) : valueOf f o s' = valueOf f o s := by
  unfold valueOf
  split
  · rfl
  · rw [haddr, memValue, memValue, hmem]

theorem exists_read_mem_pointerReadsOf {f : Format} {o : Operand} {s : State} :
    (∃ addr, Access.read addr ∈ pointerReadsOf f o s) ↔ f = .izx ∨ f = .izy := by
  cases f <;> simp [pointerReadsOf, pointerReads]

theorem write_not_mem_pointerReadsOf {f : Format} {o : Operand} {s : State} {addr : Word} {v : Byte} :
    Access.write addr v ∉ pointerReadsOf f o s := by
  cases f <;> simp [pointerReadsOf, pointerReads]

/-! ### Mnemonic: what is done with it -/

/-- The state after an operation at effective address `ea` with effective value `v` (R100, R130, R150). -/
def operate (m : Mnemonic) (ea : Word) (v : Byte) (s : State) : State :=
  match m with
  | .lda => putA v s
  | .ldx => putX v s
  | .ldy => putY v s
  | .sta => storeByte ea s.a s
  | .stx => storeByte ea s.x s
  | .sty => storeByte ea s.y s
  | .tax => putX s.a s
  | .tay => putY s.a s
  | .txa => putA s.x s
  | .tya => putA s.y s
  | .tsx => s.writeX s.sp
  | .txs => putSP s.x s

/-- The access of an operation to its data, after the pointer's (R81). -/
def dataAccess (m : Mnemonic) (f : Format) (ea : Word) (s : State) : List Access :=
  match m with
  | .lda | .ldx | .ldy => if f = .imm then [] else [.read ea]
  | .sta => [.write ea s.a]
  | .stx => [.write ea s.x]
  | .sty => [.write ea s.y]
  | _ => []

theorem exists_read_mem_dataAccess {m : Mnemonic} {f : Format} {ea : Word} {s : State} :
    (∃ addr, Access.read addr ∈ dataAccess m f ea s) ↔ m ∈ loads ∧ f ≠ .imm := by
  cases m <;> by_cases hf : f = .imm <;> simp [dataAccess, loads, hf]

theorem exists_write_mem_dataAccess {m : Mnemonic} {f : Format} {ea : Word} {s : State} :
    (∃ addr v, Access.write addr v ∈ dataAccess m f ea s) ↔ m ∈ stores := by
  cases m <;> by_cases hf : f = .imm <;> simp [dataAccess, stores, hf]

/-! ### The instruction -/

theorem exec_eq_operate (i : Instr) (s : State) :
    exec i s = .next (operate i.mnemonic (addressOf i.format i.toTerm.operand s) (valueOf i.format i.toTerm.operand s) s) := by
  cases i <;>
    simp only [Instr.format, Instr.toTerm, addressOf, valueOf, operandB1, operandW, BitVec.ofNat_toNat, BitVec.setWidth_eq] <;> rfl

theorem accesses_eq (i : Instr) (s : State) :
    accesses i s = pointerReadsOf i.format i.toTerm.operand s ++
      dataAccess i.mnemonic i.format (addressOf i.format i.toTerm.operand s) s := by
  cases i <;>
    simp only [Instr.format, Instr.toTerm, addressOf, pointerReadsOf, operandB1, operandW, BitVec.ofNat_toNat, BitVec.setWidth_eq] <;>
    rfl

/-- Every next state is the operation of the mnemonic, at some address with some value. -/
theorem exec_next_operate {i : Instr} {s t : State} (h : exec i s = .next t) : ∃ ea v, t = operate i.mnemonic ea v s := by
  rw [exec_eq_operate, Host.Outcome.next.injEq] at h
  exact ⟨_, _, h.symm⟩

/-- How another start state changes the next state: where the operand is found alike, as it changes the operation. -/
theorem exec_next_of_operate {i : Instr} {s s' t : State} {u : State → State} (h : exec i s = .next t)
    (hx : i.format ∈ [Format.zpx, .abx, .izx] → s'.x = s.x) (hy : i.format ∈ [Format.zpy, .aby, .izy] → s'.y = s.y)
    (hmem : s'.mem = s.mem) (hop : ∀ ea v, operate i.mnemonic ea v s' = u (operate i.mnemonic ea v s)) :
    exec i s' = .next (u t) := by
  have haddr : addressOf i.format i.toTerm.operand s' = addressOf i.format i.toTerm.operand s := addressOf_congr hx hy hmem
  rw [exec_eq_operate, Host.Outcome.next.injEq] at h
  rw [exec_eq_operate, haddr, valueOf_congr haddr hmem, hop, h]

/-- The accesses depend on A, X, Y and memory alone (R13, R81). -/
theorem accesses_congr (i : Instr) {s s' : State} (ha : s'.a = s.a) (hx : s'.x = s.x) (hy : s'.y = s.y)
    (hmem : s'.mem = s.mem) : accesses i s' = accesses i s := by
  rw [accesses_eq, accesses_eq, addressOf_congr (fun _ => hx) (fun _ => hy) hmem]
  simp only [pointerReadsOf, dataAccess, izxPointer, ha, hx, hy]

theorem mnemonic_eq_txs {i : Instr} : i.mnemonic = .txs ↔ i = .txs := by
  cases i <;> simp [Instr.mnemonic, Instr.toTerm]

theorem mnemonic_eq_tsx {i : Instr} : i.mnemonic = .tsx ↔ i = .tsx := by
  cases i <;> simp [Instr.mnemonic, Instr.toTerm]

/-- Every instruction is a row of the opcode map (R56). -/
theorem format_mem_formats (i : Instr) : i.format ∈ i.mnemonic.formats := by
  cases i <;> simp [Instr.format, Instr.mnemonic, Instr.toTerm, Mnemonic.formats]

end Sys2Proof.Machine
end

section
/-! O46 and O27: C, I, D, B and V are storage. No operation has them among its fields, and a run is made of steps that keep them. -/

namespace Sys2Proof.Machine

/-- The five flags that nothing computes (R18) are those of `s` in `t`. -/
def SameInertFlags (s t : State) : Prop :=
  t.flagC = s.flagC ∧ t.flagI = s.flagI ∧ t.flagD = s.flagD ∧ t.flagB = s.flagB ∧ t.flagV = s.flagV

/-- The five flags given other values. -/
def writeInert (c f d b v : Bool) (s : State) : State :=
  { s with flagC := c, flagI := f, flagD := d, flagB := b, flagV := v }

theorem SameInertFlags.refl (s : State) : SameInertFlags s s := ⟨rfl, rfl, rfl, rfl, rfl⟩

theorem SameInertFlags.trans {s t u : State} (h : SameInertFlags s t) (h' : SameInertFlags t u) : SameInertFlags s u := by
  obtain ⟨hc, hi, hd, hb, hv⟩ := h
  obtain ⟨hc', hi', hd', hb', hv'⟩ := h'
  exact ⟨hc'.trans hc, hi'.trans hi, hd'.trans hd, hb'.trans hb, hv'.trans hv⟩

theorem sameInertFlags_operate (m : Mnemonic) (ea : Word) (v : Byte) (s : State) : SameInertFlags s (operate m ea v s) := by
  cases m <;> exact .refl s

theorem operate_writeInert (m : Mnemonic) (ea : Word) (w : Byte) (c f d b v : Bool) (s : State) :
    operate m ea w (writeInert c f d b v s) = writeInert c f d b v (operate m ea w s) := by
  cases m <;> rfl

theorem exec_keeps_inertFlags {i : Instr} {s t : State} (h : exec i s = .next t) : SameInertFlags s t := by
  obtain ⟨ea, v, rfl⟩ := exec_next_operate h
  exact sameInertFlags_operate i.mnemonic ea v s

theorem exec_writeInert {i : Instr} {s t : State} (h : exec i s = .next t) (c f d b v : Bool) :
    exec i (writeInert c f d b v s) = .next (writeInert c f d b v t) :=
  exec_next_of_operate h (fun _ => rfl) (fun _ => rfl) rfl fun ea w => operate_writeInert i.mnemonic ea w c f d b v s

/-- A step moves PC, which is no flag, and runs one instruction. -/
theorem step_keeps_inertFlags {s t : State} (h : step s = .next t) : SameInertFlags s t := by
  obtain ⟨i, -, hexec⟩ := step_next h
  have hadvance : SameInertFlags s (advancePC (instrLength i) s) := .refl s
  exact hadvance.trans (exec_keeps_inertFlags hexec)

/-- Settles O46: by induction on the steps of the run. -/
theorem runsKeepTheInertFlags : Obligations.RunsKeepTheInertFlags :=
  completesIn_induction SameInertFlags.refl fun _ _ _ hstep hrest => (step_keeps_inertFlags hstep).trans hrest

theorem toNat_bitOf (value : Nat) : (bitOf value).toNat = value % 2 := by
  rcases Nat.mod_two_eq_zero_or_one value with h | h <;> simp [bitOf, h]

/-- R22: a flag got after one is set. -/
theorem getFlag_setFlag (g f : FlagName) (value : Nat) (s : State) :
    getFlag g (setFlag f value s) = if g = f then value % 2 else getFlag g s := by
  rw [← toNat_bitOf]
  cases g <;> cases f <;> rfl

theorem getFlag_setFlag_same (f : FlagName) (value : Nat) (s : State) : getFlag f (setFlag f value s) = value % 2 := by
  rw [getFlag_setFlag, if_pos rfl]

/-- Settles O27: other values of the five flags pass through an instruction, and through nothing but it. -/
theorem inertFlagsAreNeitherReadNorWritten : Obligations.InertFlagsAreNeitherReadNorWritten :=
  ⟨fun _ _ _ c f d b v h => ⟨exec_keeps_inertFlags h, exec_writeInert h c f d b v⟩, getFlag_setFlag_same⟩

end Sys2Proof.Machine
end

section
/-! O14, O15 and O26: N and Z. The helpers test the result at its own width; of the twelve mnemonics, the eight of `writesNZ` end in
`setNZ`, which forgets what N and Z were, and the others leave both. -/

namespace Sys2Proof.Machine

open Claims

theorem checkNegative_eq {k : Nat} (r : BitVec (k + 1)) (s : State) :
    checkNegative r s = { s with flagN := decide (2 ^ k ≤ r.toNat) } := by
  rw [checkNegative, BitVec.msb_eq_decide, Nat.add_sub_cancel]

theorem checkZero_eq {w : Nat} (r : BitVec w) (s : State) : checkZero r s = { s with flagZ := decide (r.toNat = 0) } := by
  simp only [checkZero, beq_eq_decide, BitVec.toNat_eq, BitVec.toNat_ofNat, Nat.zero_mod]

/-- Settles O14. -/
theorem flagHelpersTestTheResultAtItsWidth : Obligations.FlagHelpersTestTheResultAtItsWidth :=
  fun _ r s => ⟨checkNegative_eq r s, checkZero_eq r s⟩

theorem setNZ_eq (v : Byte) (s : State) :
    setNZ v s = { s with flagN := decide (0x80 ≤ v.toNat), flagZ := decide (v.toNat = 0) } := by
  rw [setNZ, checkNegative_eq, checkZero_eq]
  rfl

/-- Settles O15: the ranges are the two tests of `setNZ`, one after the other. -/
theorem setNZHasThreeOutcomes : Obligations.SetNZHasThreeOutcomes := by
  intro v s
  refine ⟨checkZero_eq v s, rfl, rfl, ?_⟩
  rw [setNZ_eq]
  refine ⟨fun hzero => ?_, fun hpos hle => ?_, fun hge => ?_, fun hboth => ?_⟩
  · simp [hzero]
  · simp [show ¬ 0x80 ≤ v.toNat by omega, show v.toNat ≠ 0 by omega]
  · simp [hge, show v.toNat ≠ 0 by omega]
  · simp only [decide_eq_true_eq] at hboth
    omega

/-- N and Z given other values. -/
def writeNZ (n z : Bool) (s : State) : State := { s with flagN := n, flagZ := z }

section Operate

variable {m : Mnemonic} (ea : Word) (v : Byte) (n z : Bool) (s : State)

theorem operate_writeNZ_of_writesNZ (hm : m ∈ writesNZ) : operate m ea v (writeNZ n z s) = operate m ea v s := by
  cases m
  case sta | stx | sty | tsx => simp [writesNZ] at hm
  all_goals rfl

theorem operate_writeNZ_of_not_writesNZ (hm : m ∉ writesNZ) :
    operate m ea v (writeNZ n z s) = writeNZ n z (operate m ea v s) := by
  cases m
  case sta | stx | sty | tsx => rfl
  all_goals simp [writesNZ] at hm

theorem operate_keeps_NZ (hm : m ∉ writesNZ) :
    (operate m ea v s).flagN = s.flagN ∧ (operate m ea v s).flagZ = s.flagZ := by
  cases m
  case sta | stx | sty | tsx => exact ⟨rfl, rfl⟩
  all_goals simp [writesNZ] at hm

theorem msb_eq_bit7 (w : Byte) : w.msb = w.getLsbD 7 := BitVec.msb_eq_getLsbD_last w

/-- R17: N and Z are those of the value the destination register holds. -/
theorem operate_sets_NZ (hm : m ∈ writesNZ) :
    ∃ w, written m (operate m ea v s) = some w ∧ (operate m ea v s).flagN = w.getLsbD 7 ∧
      (operate m ea v s).flagZ = decide (w = 0) := by
  cases m
  case sta | stx | sty | tsx => simp [writesNZ] at hm
  all_goals exact ⟨_, rfl, msb_eq_bit7 _, beq_eq_decide _ _⟩

end Operate

section Exec

variable {i : Instr} {s t : State} (h : exec i s = .next t)
include h

theorem exec_writeNZ_of_writesNZ (hm : i.mnemonic ∈ writesNZ) (n z : Bool) : exec i (writeNZ n z s) = .next t :=
  exec_next_of_operate (u := id) h (fun _ => rfl) (fun _ => rfl) rfl fun ea v => operate_writeNZ_of_writesNZ ea v n z s hm

theorem exec_writeNZ_of_not_writesNZ (hm : i.mnemonic ∉ writesNZ) (n z : Bool) :
    exec i (writeNZ n z s) = .next (writeNZ n z t) :=
  exec_next_of_operate h (fun _ => rfl) (fun _ => rfl) rfl fun ea v => operate_writeNZ_of_not_writesNZ ea v n z s hm

theorem exec_keeps_NZ (hm : i.mnemonic ∉ writesNZ) : t.flagN = s.flagN ∧ t.flagZ = s.flagZ := by
  obtain ⟨ea, v, rfl⟩ := exec_next_operate h
  exact operate_keeps_NZ ea v s hm

theorem exec_sets_NZ (hm : i.mnemonic ∈ writesNZ) :
    ∃ w, written i.mnemonic t = some w ∧ t.flagN = w.getLsbD 7 ∧ t.flagZ = decide (w = 0) := by
  obtain ⟨ea, v, rfl⟩ := exec_next_operate h
  exact operate_sets_NZ ea v s hm

end Exec

/-- Settles O26. -/
theorem nAndZAreWrittenByLoadsAndTransfersOnly : Obligations.NAndZAreWrittenByLoadsAndTransfersOnly := by
  intro i s t n z h
  refine ⟨fun hm => ⟨exec_sets_NZ h hm, exec_writeNZ_of_writesNZ h hm n z⟩, fun hm => ?_⟩
  obtain ⟨hN, hZ⟩ := exec_keeps_NZ h hm
  exact ⟨hN, hZ, exec_writeNZ_of_not_writesNZ h hm n z⟩

end Sys2Proof.Machine
end

section
/-! O29, O28 and O30: PC, SP, A, X and Y. The table of R26 is written by register, and an instruction is held to it by three facts
proved for all five at once: what happens to another value of a register that is not read and is written, or neither read nor
written, and that a register not written is kept. -/

namespace Sys2Proof.Machine

open Claims

/-! ### The table by register -/

/-- The mnemonics that have the register as data source (R26). -/
def sources : RegName → List Mnemonic
  | .a => [.sta, .tax, .tay]
  | .x => [.stx, .txa, .txs]
  | .y => [.sty, .tya]
  | .sp => [.tsx]
  | .pc => []

/-- The formats that have the register as offset (R26). -/
def offsets : RegName → List Format
  | .x => [.zpx, .abx, .izx]
  | .y => [.zpy, .aby, .izy]
  | _ => []

/-- The mnemonics that have the register as destination (R26). -/
def destinations : RegName → List Mnemonic
  | .a => [.lda, .txa, .tya]
  | .x => [.ldx, .tax, .tsx]
  | .y => [.ldy, .tay]
  | .sp => [.txs]
  | .pc => []

/-- The instruction has the register as source or offset. -/
def ReadsReg (r : RegName) (i : Instr) : Prop := i.mnemonic ∈ sources r ∨ i.format ∈ offsets r

/-- The instruction has the register as destination. -/
def WritesReg (r : RegName) (i : Instr) : Prop := i.mnemonic ∈ destinations r

theorem readsReg_a {i : Instr} : ReadsReg .a i ↔ readsA i := by simp [ReadsReg, readsA, sources, offsets]

theorem readsReg_sp {i : Instr} : ReadsReg .sp i ↔ i = .tsx := by
  simp [ReadsReg, sources, offsets, mnemonic_eq_tsx]

theorem writesReg_sp {i : Instr} : WritesReg .sp i ↔ i = .txs := by
  simp [WritesReg, destinations, mnemonic_eq_txs]

theorem not_readsReg_pc (i : Instr) : ¬ ReadsReg .pc i := by simp [ReadsReg, sources, offsets]

theorem not_writesReg_pc (i : Instr) : ¬ WritesReg .pc i := by simp [WritesReg, destinations]

/-- R185: no mnemonic has its destination as a source, or a format that it indexes. -/
theorem not_readsReg_and_writesReg (r : RegName) (i : Instr) : ¬ (ReadsReg r i ∧ WritesReg r i) := by
  rintro ⟨hr, hw⟩
  have disjoint : ∀ m ∈ destinations r, m ∉ sources r ∧ ∀ f ∈ m.formats, f ∉ offsets r := by cases r <;> decide
  obtain ⟨hsource, hoffset⟩ := disjoint _ hw
  exact hr.elim hsource (hoffset _ (format_mem_formats i))

/-! ### Other values of a register -/

theorem setReg_a_toNat (v : Byte) (s : State) : setReg .a v.toNat s = { s with a := v } := by
  simp [setReg, State.writeA]

theorem setReg_x_toNat (v : Byte) (s : State) : setReg .x v.toNat s = { s with x := v } := by
  simp [setReg, State.writeX]

theorem setReg_y_toNat (v : Byte) (s : State) : setReg .y v.toNat s = { s with y := v } := by
  simp [setReg, State.writeY]

theorem setReg_sp_toNat (v : Byte) (s : State) : setReg .sp v.toNat s = { s with sp := v } := by
  simp [setReg, State.writeSP]

theorem setReg_pc_toNat (v : Word) (s : State) : setReg .pc v.toNat s = { s with pc := v } := by
  simp [setReg, State.writePC]

section Register

variable {r : RegName}

theorem x_setReg (hr : r ≠ .x) (value : Nat) (s : State) : (setReg r value s).x = s.x := by
  cases r
  case x => exact absurd rfl hr
  all_goals rfl

theorem y_setReg (hr : r ≠ .y) (value : Nat) (s : State) : (setReg r value s).y = s.y := by
  cases r
  case y => exact absurd rfl hr
  all_goals rfl

theorem mem_setReg (r : RegName) (value : Nat) (s : State) : (setReg r value s).mem = s.mem := by
  cases r <;> rfl

section Operate

variable {m : Mnemonic} (ea : Word) (v : Byte) (value : Nat) (s : State)

/-! Each register with each mnemonic is one cell of the table: the hypotheses rule cells out, and in a cell that is left the two
sides are the same update of the state. -/

theorem operate_setReg_of_destination (hw : m ∈ destinations r) :
    operate m ea v (setReg r value s) = operate m ea v s := by
  cases r <;> cases m
  all_goals simp [destinations] at hw
  all_goals rfl

theorem operate_setReg (hr : m ∉ sources r) (hw : m ∉ destinations r) :
    operate m ea v (setReg r value s) = setReg r value (operate m ea v s) := by
  cases r <;> cases m
  all_goals simp [sources, destinations] at hr hw
  all_goals rfl

theorem getReg_operate (hw : m ∉ destinations r) : getReg r (operate m ea v s) = getReg r s := by
  cases r <;> cases m
  all_goals simp [destinations] at hw
  all_goals rfl

end Operate

section Exec

variable {i : Instr} {s t : State} (h : exec i s = .next t)
include h

theorem exec_setReg_of_operate {u : State → State} (hr : ¬ ReadsReg r i) (value : Nat)
    (hop : ∀ ea v, operate i.mnemonic ea v (setReg r value s) = u (operate i.mnemonic ea v s)) :
    exec i (setReg r value s) = .next (u t) := by
  refine exec_next_of_operate h (fun hf => x_setReg ?_ value s) (fun hf => y_setReg ?_ value s) (mem_setReg r value s) hop
  · rintro rfl
    exact hr (.inr hf)
  · rintro rfl
    exact hr (.inr hf)

theorem exec_setReg_of_writesReg (hr : ¬ ReadsReg r i) (hw : WritesReg r i) (value : Nat) :
    exec i (setReg r value s) = .next t :=
  exec_setReg_of_operate (u := id) h hr value fun ea v => operate_setReg_of_destination ea v value s hw

theorem exec_setReg (hr : ¬ ReadsReg r i) (hw : ¬ WritesReg r i) (value : Nat) :
    exec i (setReg r value s) = .next (setReg r value t) :=
  exec_setReg_of_operate h hr value fun ea v => operate_setReg ea v value s (fun hm => hr (.inl hm)) hw

theorem exec_keeps_reg (hw : ¬ WritesReg r i) : getReg r t = getReg r s := by
  obtain ⟨ea, v, rfl⟩ := exec_next_operate h
  exact getReg_operate ea v s hw

theorem exec_keeps_pc : t.pc = s.pc := BitVec.eq_of_toNat_eq (exec_keeps_reg (r := .pc) h (not_writesReg_pc i))

theorem exec_keeps_sp (htxs : i ≠ .txs) : t.sp = s.sp :=
  BitVec.eq_of_toNat_eq (exec_keeps_reg (r := .sp) h (writesReg_sp.not.2 htxs))

/-- TXS does not read SP. -/
theorem exec_setReg_sp_of_txs (htxs : i = .txs) (value : Nat) : exec i (setReg .sp value s) = .next t :=
  have hw : WritesReg .sp i := writesReg_sp.2 htxs
  exec_setReg_of_writesReg h (fun hr => not_readsReg_and_writesReg .sp i ⟨hr, hw⟩) hw value

theorem exec_setReg_sp (htsx : i ≠ .tsx) (htxs : i ≠ .txs) (value : Nat) :
    exec i (setReg .sp value s) = .next (setReg .sp value t) :=
  exec_setReg h (readsReg_sp.not.2 htsx) (writesReg_sp.not.2 htxs) value

end Exec

end Register

/-- Settles O29. -/
theorem execNeitherReadsNorWritesPC : Obligations.ExecNeitherReadsNorWritesPC := by
  intro i s t p h
  simp only [← setReg_pc_toNat]
  exact ⟨exec_keeps_pc h, exec_setReg h (not_readsReg_pc i) (not_writesReg_pc i) p.toNat, accesses_congr i rfl rfl rfl rfl⟩

/-- Settles O28: TSX and TXS are run as they stand, the others keep SP and pass another SP through. -/
theorem stackPointerIsTouchedByTsxAndTxsOnly : Obligations.StackPointerIsTouchedByTsxAndTxsOnly := by
  intro i s t p h
  simp only [← setReg_sp_toNat]
  refine ⟨accesses_congr i rfl rfl rfl rfl, exec_keeps_sp h, fun htsx htxs => exec_setReg_sp h htsx htxs p.toNat,
    fun htxs => ⟨?_, exec_setReg_sp_of_txs h htxs p.toNat⟩, fun htsx => ?_⟩
  · subst htxs
    cases h
    rfl
  · subst htsx
    cases h
    rfl

/-! ### Memory traffic -/

theorem operate_keeps_mem {m : Mnemonic} (ea : Word) (v : Byte) (s : State) (hm : m ∉ stores) :
    (operate m ea v s).mem = s.mem := by
  cases m
  case sta | stx | sty => simp [stores] at hm
  all_goals rfl

theorem exec_keeps_mem {i : Instr} {s t : State} (h : exec i s = .next t) (hm : i.mnemonic ∉ stores) : t.mem = s.mem := by
  obtain ⟨ea, v, rfl⟩ := exec_next_operate h
  exact operate_keeps_mem ea v s hm

theorem exists_read_mem_accesses (i : Instr) (s : State) : (∃ addr, Access.read addr ∈ accesses i s) ↔
    (i.mnemonic ∈ loads ∧ i.format ≠ .imm) ∨ i.format = .izx ∨ i.format = .izy := by
  simp only [accesses_eq, List.mem_append, exists_or, exists_read_mem_pointerReadsOf, exists_read_mem_dataAccess, or_comm]

theorem exists_write_mem_accesses (i : Instr) (s : State) :
    (∃ addr w, Access.write addr w ∈ accesses i s) ↔ i.mnemonic ∈ stores := by
  simp only [accesses_eq, List.mem_append, write_not_mem_pointerReadsOf, false_or, exists_write_mem_dataAccess]

/-- Settles O30: the table, cell by cell. -/
theorem registerTrafficIsTheTable : Obligations.RegisterTrafficIsTheTable := by
  intro i s t v h
  simp only [← setReg_a_toNat, ← setReg_x_toNat, ← setReg_y_toNat, ← setReg_sp_toNat]
  obtain ⟨hC, hI, hD, hB, hV⟩ := exec_keeps_inertFlags h
  exact ⟨fun hr hw => exec_setReg_of_writesReg h (readsReg_a.not.2 hr) hw v.toNat,
    fun hr hw => exec_setReg h (readsReg_a.not.2 hr) hw v.toNat,
    fun hr hw => exec_setReg_of_writesReg (r := .x) h hr hw v.toNat,
    fun hr hw => exec_setReg (r := .x) h hr hw v.toNat,
    fun hr hw => exec_setReg_of_writesReg (r := .y) h hr hw v.toNat,
    fun hr hw => exec_setReg (r := .y) h hr hw v.toNat,
    fun htxs => exec_setReg_sp_of_txs h htxs v.toNat,
    fun htsx htxs => exec_setReg_sp h htsx htxs v.toNat,
    fun hw => BitVec.eq_of_toNat_eq (exec_keeps_reg (r := .a) h hw),
    fun hw => BitVec.eq_of_toNat_eq (exec_keeps_reg (r := .x) h hw),
    fun hw => BitVec.eq_of_toNat_eq (exec_keeps_reg (r := .y) h hw),
    exec_keeps_sp h,
    fun hm addr => congrArg (Memory.readByte · addr) (exec_keeps_mem h hm),
    exists_read_mem_accesses i s, exists_write_mem_accesses i s, exec_keeps_NZ h,
    ⟨hC, hI, hD, hB, hV, exec_keeps_pc h⟩,
    fun ⟨hr, hw⟩ => not_readsReg_and_writesReg .a i ⟨readsReg_a.2 hr, hw⟩,
    not_readsReg_and_writesReg .x i, not_readsReg_and_writesReg .y i⟩

end Sys2Proof.Machine
end

section
/-! O41, O43 and O44: reset, launch and the accessors. -/

namespace Sys2Proof.Machine

/-- Settles O41: nothing is listed after reset, so every address reads as unlisted. -/
theorem resetMemoryIsZeroAndCanonical : Obligations.ResetMemoryIsZeroAndCanonical :=
  ⟨canonicalMemory_reset, fun addr => lookup_nil (addr % Config.memSize)⟩

theorem preloadAll_append (image rest : List (Nat × Nat)) (s : State) :
    preloadAll (image ++ rest) s = preloadAll rest (preloadAll image s) := by
  induction image generalizing s with
  | nil => rfl
  | cons entry image ih => exact ih (preload entry.1 entry.2 s)

/-- R34, R31: a byte of an image is written modulo 256 at its address modulo 65536. -/
theorem readByte_preload (addr value b : Nat) (s : State) : (preload addr value s).mem.readByte b =
    if b % 65536 = addr % 65536 then BitVec.ofNat 8 value else s.mem.readByte b :=
  lookup_store s.mem (addr % 65536) (BitVec.ofNat 8 value) (b % 65536)

theorem setAll_mem (l : Launch) (s : State) : (setAll l s).mem = s.mem := by rw [setAll_eq]

theorem launch_mem (l : Launch) : l.state.mem = (preloadAll l.image State.reset).mem := setAll_mem l _

/-- Settles O43: memory is the image's, and each register and flag is the last thing set in it. -/
theorem launchIsZeroMemoryThenImageThenRegisters : Obligations.LaunchIsZeroMemoryThenImageThenRegisters := by
  intro l addr value b
  refine ⟨fun hempty => ?_, ?_, ?_⟩
  · rw [launch_mem, hempty]
    exact lookup_nil (b % Config.memSize)
  · rw [launch_mem, launch_mem, preloadAll_append]
    exact readByte_preload addr value b (preloadAll l.image State.reset)
  · rw [Launch.state, setAll_eq]
    exact ⟨BitVec.toNat_ofNat l.a 8, BitVec.toNat_ofNat l.x 8, BitVec.toNat_ofNat l.y 8, BitVec.toNat_ofNat l.sp 8,
      BitVec.toNat_ofNat l.pc 16, toNat_bitOf l.flagC, toNat_bitOf l.flagZ, toNat_bitOf l.flagI, toNat_bitOf l.flagD,
      toNat_bitOf l.flagB, toNat_bitOf l.flagV, toNat_bitOf l.flagN⟩

/-- R22, R14: a register got after one is set. -/
theorem getReg_setReg (q r : RegName) (value : Nat) (s : State) :
    getReg q (setReg r value s) = if q = r then value % 2 ^ regWidth r else getReg q s := by
  cases q <;> cases r <;> rfl

theorem getFlag_setReg (f : FlagName) (r : RegName) (value : Nat) (s : State) :
    getFlag f (setReg r value s) = getFlag f s := by
  cases r <;> rfl

theorem getReg_setFlag (r : RegName) (f : FlagName) (value : Nat) (s : State) :
    getReg r (setFlag f value s) = getReg r s := by
  cases f <;> rfl

theorem mem_setFlag (f : FlagName) (value : Nat) (s : State) : (setFlag f value s).mem = s.mem := by
  cases f <;> rfl

/-- Settles O44. -/
theorem setAccessorsWriteTheNamedItemOnly : Obligations.SetAccessorsWriteTheNamedItemOnly := by
  intro s value
  refine ⟨fun r => ⟨?_, fun q hne => ?_, fun f => getFlag_setReg f r value s, mem_setReg r value s⟩,
    fun f => ⟨getFlag_setFlag_same f value s, fun g hne => ?_, fun r => getReg_setFlag r f value s, mem_setFlag f value s⟩⟩
  · rw [getReg_setReg, if_pos rfl]
  · rw [getReg_setReg, if_neg hne]
  · rw [getFlag_setFlag, if_neg hne]

end Sys2Proof.Machine
end

section
/-! O40: a step writes memory through `storeByte` alone, which keeps the canonical form. -/

namespace Sys2Proof.Machine

theorem canonicalMemory_storeByte {s : State} (hs : CanonicalMemory s) (ea : Word) (v : Byte) :
    CanonicalMemory (storeByte ea v s) :=
  wf_writeByte hs ea.toNat v.toNat

theorem canonicalMemory_operate {s : State} (hs : CanonicalMemory s) (m : Mnemonic) (ea : Word) (v : Byte) :
    CanonicalMemory (operate m ea v s) := by
  cases m
  case sta | stx | sty => exact canonicalMemory_storeByte hs ea _
  all_goals exact hs

/-- Settles O40: moving PC leaves memory, and the instruction is the operation of its mnemonic. -/
theorem stepKeepsMemoryCanonical : Obligations.StepKeepsMemoryCanonical := by
  intro s t hs hstep
  obtain ⟨i, -, hexec⟩ := step_next hstep
  obtain ⟨ea, v, rfl⟩ := exec_next_operate hexec
  have hadvance : CanonicalMemory (advancePC (instrLength i) s) := hs
  exact canonicalMemory_operate hadvance i.mnemonic ea v

end Sys2Proof.Machine
end

section
/-! O7 to O11: the four memory primitives. An address counts modulo 65536 alone (R31), so each primitive takes congruent addresses to
the same result; what a byte reads after a write of a byte or a word is then said once for each (R34, R35). -/

namespace Sys2Proof.Machine

/-! ### Congruent addresses -/

section Congruent

variable {a b : Nat} (h : a ≡ b [MOD 65536])
include h

theorem readByte_congr (m : Memory) : m.readByte a = m.readByte b := congrArg m.lookup h

theorem readWord_congr (m : Memory) : m.readWord a = m.readWord b :=
  congrArg₂ operandWord (readByte_congr h m) (readByte_congr (h.add_right 1) m)

theorem writeByte_congr (m : Memory) (v : Nat) : m.writeByte a v = m.writeByte b v :=
  congrArg (fun k => (BitVec.ofNat 8 v, m.store k (BitVec.ofNat 8 v))) h

theorem writeWord_congr (m : Memory) (v : Nat) : m.writeWord a v = m.writeWord b v := by
  rw [Memory.writeWord, writeByte_congr h, writeByte_congr (h.add_right 1), Memory.writeWord]

end Congruent

/-- Settles O7. -/
theorem addressesAreReducedModuloMemorySize : Obligations.AddressesAreReducedModuloMemorySize := by
  intro m addr v
  have h : addr ≡ addr % 65536 [MOD 65536] := (Nat.mod_modEq addr 65536).symm
  exact ⟨readByte_congr h m, readWord_congr h m, writeByte_congr h m v, writeWord_congr h m v⟩

/-- The two addresses of a word are never one (R33, R35). -/
theorem not_modEq_succ (a : Nat) : ¬ a ≡ a + 1 [MOD 65536] := by
  rw [Nat.ModEq]
  omega

/-- R33: above 0xFFFF is 0x0000. -/
theorem succ_modEq_zero {a : Nat} (h : a ≡ 0xFFFF [MOD 65536]) : a + 1 ≡ 0 [MOD 65536] := h.add_right 1

/-! ### A word read -/

theorem readWord_toNat (m : Memory) (addr : Nat) :
    (m.readWord addr).toNat = (m.readByte (addr + 1)).toNat * 256 + (m.readByte addr).toNat :=
  operandWord_toNat _ _

/-- Settles O8: the second address is congruent to `addr + 1`, and so to 0 at the top of memory. -/
theorem wordReadIsLittleEndianAndWraps : Obligations.WordReadIsLittleEndianAndWraps := by
  intro m addr
  rw [readWord_toNat]
  refine ⟨?_, fun (htop : addr ≡ 0xFFFF [MOD 65536]) => ?_⟩
  · rw [readByte_congr (Nat.mod_modEq (addr + 1) 65536), readByte_congr (Nat.mod_modEq addr 65536)]
  · rw [readByte_congr (succ_modEq_zero htop), readByte_congr htop]

/-! ### A byte or a word written -/

theorem readByte_writeByte (m : Memory) (addr v b : Nat) : (m.writeByte addr v).2.readByte b =
    if b ≡ addr [MOD 65536] then BitVec.ofNat 8 v else m.readByte b :=
  lookup_store m (addr % 65536) (BitVec.ofNat 8 v) (b % 65536)

theorem readByte_writeByte_same (m : Memory) (addr v : Nat) :
    ((m.writeByte addr v).2.readByte addr).toNat = v % 256 := by
  rw [readByte_writeByte, if_pos (.refl addr), BitVec.toNat_ofNat]

/-- Settles O9. -/
theorem byteWriteStoresOneByte : Obligations.ByteWriteStoresOneByte := by
  intro m addr v b
  exact ⟨BitVec.toNat_ofNat v 8, readByte_writeByte_same m addr v,
    fun hne => (readByte_writeByte m addr v b).trans (if_neg hne)⟩

theorem readByte_writeWord (m : Memory) (addr v b : Nat) : (m.writeWord addr v).2.readByte b =
    if b ≡ addr + 1 [MOD 65536] then highByte (BitVec.ofNat 16 v)
    else if b ≡ addr [MOD 65536] then lowByte (BitVec.ofNat 16 v) else m.readByte b := by
  simp only [Memory.writeWord, readByte_writeByte, BitVec.ofNat_toNat, BitVec.setWidth_eq]

theorem readByte_writeWord_low (m : Memory) (addr v : Nat) :
    (m.writeWord addr v).2.readByte addr = lowByte (BitVec.ofNat 16 v) := by
  rw [readByte_writeWord, if_neg (not_modEq_succ addr), if_pos (.refl addr)]

theorem readByte_writeWord_high {addr b : Nat} (h : b ≡ addr + 1 [MOD 65536]) (m : Memory) (v : Nat) :
    (m.writeWord addr v).2.readByte b = highByte (BitVec.ofNat 16 v) := by
  rw [readByte_writeWord, if_pos h]

/-- Settles O10: a 16-bit value is not reduced, so its bytes are the remainder and the quotient by 256. -/
theorem wordWriteStoresTwoBytes : Obligations.WordWriteStoresTwoBytes := by
  intro m addr v b hv
  have hvalue : (BitVec.ofNat 16 v).toNat = v := (BitVec.toNat_ofNat v 16).trans (Nat.mod_eq_of_lt (Nat.lt_succ_of_le hv))
  have hlow : (lowByte (BitVec.ofNat 16 v)).toNat = v % 256 := by rw [lowByte_toNat, hvalue]
  have hhigh : (highByte (BitVec.ofNat 16 v)).toNat = v / 256 := by rw [highByte_toNat, hvalue]
  refine ⟨hvalue, ?_, ?_, fun htop => ?_, fun hneLow hneHigh => ?_⟩
  · rw [readByte_writeWord_low, hlow]
  · rw [readByte_writeWord_high rfl, hhigh]
  · rw [readByte_writeWord_high (succ_modEq_zero htop).symm, hhigh]
  · exact (readByte_writeWord m addr v b).trans ((if_neg hneHigh).trans (if_neg hneLow))

theorem readWord_writeWord (m : Memory) (addr : Nat) (v : Word) : (m.writeWord addr v.toNat).2.readWord addr = v := by
  rw [Memory.readWord, readByte_writeWord_low, readByte_writeWord_high rfl, operandWord_lowByte_highByte,
    BitVec.ofNat_toNat, BitVec.setWidth_eq]

theorem lowByte_toNat_and (w : Word) : (lowByte w).toNat = w.toNat &&& 0xFF := by
  rw [lowByte_toNat, Nat.and_two_pow_sub_one_eq_mod w.toNat 8]

theorem highByte_toNat_and (w : Word) : (highByte w).toNat = (w.toNat >>> 8) &&& 0xFF := by
  have hw := w.isLt
  rw [highByte_toNat, Nat.and_two_pow_sub_one_eq_mod _ 8, Nat.shiftRight_eq_div_pow]
  omega

/-- Settles O11. -/
theorem readsReturnWhatWasWritten : Obligations.ReadsReturnWhatWasWritten := by
  refine ⟨readByte_writeByte_same, fun m a v => ⟨readWord_writeWord m a v, ?_, ?_⟩⟩
  · rw [readByte_writeWord_low, lowByte_toNat_and, BitVec.ofNat_toNat, BitVec.setWidth_eq]
  · rw [readByte_writeWord_high (Nat.mod_modEq (a + 1) 65536), highByte_toNat_and, BitVec.ofNat_toNat,
      BitVec.setWidth_eq]

end Sys2Proof.Machine
end

section
/-! O33 and O34: the write an instruction lists is the one it makes. A listed write names the effective address and the register
stored, and the instruction is then `storeByte` of the two; an instruction that lists none leaves memory. -/

namespace Sys2Proof.Machine

open Claims

/-! ### The write listed for an instruction -/

/-- The register a store writes to memory (R130). -/
def stored (m : Mnemonic) (s : State) : Option Byte :=
  match m with
  | .sta => some s.a
  | .stx => some s.x
  | .sty => some s.y
  | _ => none

theorem write_mem_dataAccess {m : Mnemonic} {f : Format} {ea w : Word} {v : Byte} {s : State} :
    Access.write w v ∈ dataAccess m f ea s ↔ w = ea ∧ stored m s = some v := by
  cases m
  case sta | stx | sty => simp [dataAccess, stored, eq_comm]
  case lda | ldx | ldy => by_cases hf : f = .imm <;> simp [dataAccess, stored, hf]
  all_goals simp [dataAccess, stored]

theorem operate_of_stored {m : Mnemonic} {v : Byte} {s : State} (h : stored m s = some v) (ea : Word) (w : Byte) :
    operate m ea w s = storeByte ea v s := by
  cases m
  case sta | stx | sty =>
    cases h
    rfl
  all_goals cases h

theorem write_mem_accesses {i : Instr} {s : State} {ea : Word} {v : Byte} : Access.write ea v ∈ accesses i s ↔
    ea = addressOf i.format i.toTerm.operand s ∧ stored i.mnemonic s = some v := by
  rw [accesses_eq, List.mem_append, or_iff_right write_not_mem_pointerReadsOf, write_mem_dataAccess]

/-- An instruction that lists a write makes it. -/
theorem eq_storeByte_of_write_mem_accesses {i : Instr} {s t : State} {ea : Word} {v : Byte} (h : exec i s = .next t)
    (hwrite : Access.write ea v ∈ accesses i s) : t = storeByte ea v s := by
  obtain ⟨rfl, hstored⟩ := write_mem_accesses.1 hwrite
  rw [exec_eq_operate, operate_of_stored hstored, Host.Outcome.next.injEq] at h
  exact h.symm

/-- An instruction that lists no write leaves memory. -/
theorem exec_keeps_mem_of_no_write {i : Instr} {s t : State} (h : exec i s = .next t)
    (hnone : ∀ w v, Access.write w v ∉ accesses i s) : t.mem = s.mem := by
  refine exec_keeps_mem h fun hm => ?_
  obtain ⟨w, v, hwrite⟩ := (exists_write_mem_accesses i s).2 hm
  exact hnone w v hwrite

/-! ### The write listed for a step -/

theorem write_not_mem_fetchAccesses {s : State} {w : Word} {v : Byte} : Access.write w v ∉ fetchAccesses s := by
  unfold fetchAccesses
  split <;> simp

theorem write_mem_stepAccesses {s : State} {i : Instr} (h : fetch s = .ok i) {w : Word} {v : Byte} :
    Access.write w v ∈ stepAccesses s ↔ Access.write w v ∈ accesses i (advancePC (instrLength i) s) := by
  rw [stepAccesses_of_fetch h, List.mem_append, or_iff_right write_not_mem_fetchAccesses]

theorem readByte_storeByte_same (ea : Word) (v : Byte) (s : State) : (storeByte ea v s).mem.readByte ea.toNat = v :=
  (readByte_storeByte ea v s ea.toNat).trans (if_pos (Nat.mod_eq_of_lt ea.isLt))

theorem readByte_storeByte_of_ne {ea : Word} {addr : Nat} (h : ea.toNat ≠ addr % 65536) (v : Byte) (s : State) :
    (storeByte ea v s).mem.readByte addr = s.mem.readByte addr :=
  (readByte_storeByte ea v s addr).trans (if_neg (Ne.symm h))

/-- Settles O33: the step either makes the write its instruction lists, or lists none and leaves memory. -/
theorem stepChangesOnlyTheBytesItWrites : Obligations.StepChangesOnlyTheBytesItWrites := by
  intro s t hstep
  obtain ⟨i, hfetch, hexec⟩ := step_next hstep
  simp only [write_mem_stepAccesses hfetch]
  refine ⟨fun w v hwrite => ?_, fun addr hother => ?_⟩
  · rw [eq_storeByte_of_write_mem_accesses hexec hwrite, readByte_storeByte_same]
  · by_cases hlisted : ∃ w v, Access.write w v ∈ accesses i (advancePC (instrLength i) s)
    · obtain ⟨w, v, hwrite⟩ := hlisted
      rw [eq_storeByte_of_write_mem_accesses hexec hwrite, readByte_storeByte_of_ne (hother w v hwrite), advancePC_mem]
    · push Not at hlisted
      rw [exec_keeps_mem_of_no_write hexec hlisted, advancePC_mem]

/-! ### A store and the load that undoes it -/

/-- The mnemonics of a store and the load of the same register (95_test_vectors.md Q9). -/
def LoadsBack (n m : Mnemonic) : Prop := (m = .sta ∧ n = .lda) ∨ (m = .stx ∧ n = .ldx) ∨ (m = .sty ∧ n = .ldy)

theorem LoadsBack.mem_loads {n m : Mnemonic} (h : LoadsBack n m) : n ∈ loads := by
  obtain ⟨-, rfl⟩ | ⟨-, rfl⟩ | ⟨-, rfl⟩ := h <;> decide

theorem LoadsBack.written_eq {n m : Mnemonic} (h : LoadsBack n m) (s : State) : written n s = stored m s := by
  obtain ⟨rfl, rfl⟩ | ⟨rfl, rfl⟩ | ⟨rfl, rfl⟩ := h <;> rfl

theorem written_storeByte (m : Mnemonic) (ea : Word) (v : Byte) (s : State) :
    written m (storeByte ea v s) = written m s := by
  cases m <;> rfl

theorem written_writeNZ (m : Mnemonic) (n z : Bool) (s : State) : written m (writeNZ n z s) = written m s := by
  cases m <;> rfl

theorem setNZ_eq_writeNZ (v : Byte) (s : State) : setNZ v s = writeNZ (v.getLsbD 7) (decide (v = 0)) s := by
  simp only [setNZ, checkZero, checkNegative, writeNZ, msb_eq_bit7, beq_eq_decide]
  rfl

/-- Loading the value a register holds writes N and Z alone. -/
theorem operate_load_of_written {m : Mnemonic} {v : Byte} {s : State} (hm : m ∈ loads) (hv : written m s = some v)
    (ea : Word) : operate m ea v s = writeNZ (v.getLsbD 7) (decide (v = 0)) s := by
  rw [← setNZ_eq_writeNZ]
  cases m
  case lda | ldx | ldy =>
    cases hv
    rfl
  all_goals simp [loads] at hm

/-- No store has the immediate format (R56). -/
theorem format_ne_imm_of_stored {i : Instr} {v : Byte} {s : State} (h : stored i.mnemonic s = some v) :
    i.format ≠ .imm := by
  have himm : ∀ m : Mnemonic, .imm ∈ m.formats → stored m s = none := by
    intro m hm
    cases m
    case sta | stx | sty => simp [Mnemonic.formats] at hm
    all_goals rfl
  intro hf
  have hformat := format_mem_formats i
  rw [hf] at hformat
  simp [himm _ hformat] at h

theorem valueOf_of_ne_imm {f : Format} (hf : f ≠ .imm) (o : Operand) (s : State) :
    valueOf f o s = memValue (addressOf f o s) s := by
  cases f
  case imm => exact absurd rfl hf
  all_goals rfl

/-- A store that reads no byte it writes has the same accesses after it, so the same effective address. -/
theorem accesses_storeByte {i : Instr} {s : State} {ea : Word} {v : Byte} (h : Access.read ea ∉ accesses i s) :
    accesses i (storeByte ea v s) = accesses i s := by
  refine accesses_writeMem fun addr hread => ?_
  have hne : ea.toNat ≠ addr.toNat % 65536 := by
    rw [Nat.mod_eq_of_lt addr.isLt, ← BitVec.toNat_ne]
    rintro rfl
    exact h hread
  exact (readByte_storeByte_of_ne hne v s).symm

/-- Settles O34: the load finds the address the store wrote to, and in it the value its register holds already. -/
theorem storeThenLoadReturnsTheStoredByte : Obligations.StoreThenLoadReturnsTheStoredByte := by
  rintro i j s t ea v ⟨reads, hstore, -, hformat, hoperand, hback, hdistinct⟩ hexec
  replace hback : LoadsBack j.mnemonic i.mnemonic := hback
  have hwrite : Access.write ea v ∈ accesses i s := by simp [hstore]
  obtain rfl := eq_storeByte_of_write_mem_accesses hexec hwrite
  have hread : Access.read ea ∉ accesses i s := by simpa [hstore] using hdistinct
  rw [← accesses_storeByte (v := v) hread] at hwrite
  obtain ⟨hea, hstored⟩ := write_mem_accesses.1 hwrite
  have hheld : written j.mnemonic (storeByte ea v s) = some v := (hback.written_eq _).trans hstored
  have hload : exec j (storeByte ea v s) =
      .next (writeNZ (v.getLsbD 7) (decide (v = 0)) (storeByte ea v s)) := by
    rw [exec_eq_operate, ← hformat, ← hoperand, valueOf_of_ne_imm (format_ne_imm_of_stored hstored), ← hea, memValue,
      readByte_storeByte_same, operate_load_of_written hback.mem_loads hheld]
  exact ⟨_, hload, (written_writeNZ _ _ _ _).trans hheld, (written_storeByte _ _ _ _).symm.trans hheld, rfl⟩

end Sys2Proof.Machine
end

section
/-! O1 to O4: the encoder and the decoder are inverse. A row of the opcode map fixes an instruction's first byte and how many
operand bytes follow; `assemble` and `encode` take the same bytes apart and together. -/

namespace Sys2Proof.Machine

/-! ### The decoder, case by case -/

theorem decode_of_row {opc b1 b2 : Byte} {tail rest : List Byte} {r : OpcodeRow} {i : Instr} (hrow : rowOf opc = some r)
    (htake : takeOperands (formatLength r.format) tail = some (b1, b2, rest))
    (hassemble : assemble r.mnemonic r.format b1 b2 = some i) : decode (opc :: tail) = .ok (i, rest) := by
  simp only [decode, hrow, htake, hassemble]

theorem decode_of_undefined {opc : Byte} (h : opcodeLength opc = none) (tail : List Byte) :
    decode (opc :: tail) = .error (.undefinedOpcode opc) := by
  simp only [decode, Option.map_eq_none_iff.1 h]

theorem formatLength_cases (f : Format) : formatLength f = 1 ∨ formatLength f = 2 ∨ formatLength f = 3 := by
  cases f <;> simp [formatLength]

/-- Operand bytes are missing only when there are too few (assumption log 14). -/
theorem exists_takeOperands {f : Format} {tail : List Byte} (h : formatLength f ≤ tail.length + 1) :
    ∃ b1 b2 rest, takeOperands (formatLength f) tail = some (b1, b2, rest) := by
  rcases formatLength_cases f with hlen | hlen | hlen <;> rw [hlen] at h ⊢
  · exact ⟨_, _, _, rfl⟩
  · rcases tail with _ | ⟨b1, rest⟩
    · simp at h
    · exact ⟨_, _, _, rfl⟩
  · rcases tail with _ | ⟨b1, _ | ⟨b2, rest⟩⟩
    · simp at h
    · simp at h
    · exact ⟨_, _, _, rfl⟩

/-! ### One instruction -/

/-- Settles O1: each instruction's first byte is the opcode of its row, and its operand word is put together as it was cut. -/
theorem decodeOfEncodeIsIdentity : Obligations.DecodeOfEncodeIsIdentity := by
  intro i rest
  cases i
  all_goals exact decode_of_row rfl rfl (by simp only [assemble, operandWord_lowByte_highByte])

/-- Settles O3: the printed bytes are encodings with nothing after them. -/
theorem sampleWordsDecode : Obligations.SampleWordsDecode :=
  ⟨decodeOfEncodeIsIdentity .tax [], decodeOfEncodeIsIdentity (.ldaImm 0x80) [], decodeOfEncodeIsIdentity (.ldaZp 0x10) [],
    decodeOfEncodeIsIdentity (.ldaZpx 0x0B) [], decodeOfEncodeIsIdentity (.ldxZpy 0x10) [],
    decodeOfEncodeIsIdentity (.ldaAbs 0x1234) [], decodeOfEncodeIsIdentity (.ldaAbx 0xFFFF) [],
    decodeOfEncodeIsIdentity (.ldaAby 0x1234) [], decodeOfEncodeIsIdentity (.ldaIzx 0x20) [],
    decodeOfEncodeIsIdentity (.ldaIzy 0x20) []⟩

/-- The operand bytes taken are those the length has, at the head of what follows the opcode. -/
theorem eq_append_of_takeOperands {len : Nat} {tail rest : List Byte} {b1 b2 : Byte}
    (h : takeOperands len tail = some (b1, b2, rest)) : tail = [b1, b2].take (len - 1) ++ rest := by
  obtain ⟨rfl, -, -, rfl⟩ | ⟨rfl, -, rfl⟩ | ⟨rfl, rfl⟩ := takeOperands_some h <;> rfl

/-- The instruction a row assembles is encoded by the row's opcode and the operand bytes its format has (R52, R53). -/
theorem encode_of_assemble {r : OpcodeRow} (hr : r ∈ opcodeTable) {b1 b2 : Byte} {i : Instr}
    (h : assemble r.mnemonic r.format b1 b2 = some i) :
    encode i = r.opcode :: [b1, b2].take (formatLength r.format - 1) := by
  revert r
  simp only [opcodeTable, opcodeRows8, opcodeRowsA, opcodeRowsB, List.cons_append, List.nil_append, List.forall_mem_cons,
    List.not_mem_nil, false_imp_iff, implies_true, and_true]
  and_intros
  all_goals
    intro h
    cases h
    simp [encode, formatLength]

/-- Settles O2: the row and the operand bytes the decoder read are those the encoder writes. -/
theorem decodedBytesAreTheEncoding : Obligations.DecodedBytesAreTheEncoding := by
  intro bs rest i h
  obtain ⟨opc, tail, r, b1, b2, rfl, hrow, htake, hassemble⟩ := decode_ok h
  obtain ⟨hr, rfl⟩ := rowOf_some hrow
  rw [encode_of_assemble hr hassemble, eq_append_of_takeOperands htake, List.cons_append]

/-! ### Lengths -/

/-- The facts of `Laws.EncodedForm`, for all 37 constructors. -/
theorem encodedForm (i : Instr) : Laws.EncodedForm.Statement i := by
  cases i
  exacts [Laws.EncodedForm.staIzx _, Laws.EncodedForm.styZp _, Laws.EncodedForm.staZp _, Laws.EncodedForm.stxZp _,
    Laws.EncodedForm.txa, Laws.EncodedForm.styAbs _, Laws.EncodedForm.staAbs _, Laws.EncodedForm.stxAbs _,
    Laws.EncodedForm.staIzy _, Laws.EncodedForm.styZpx _, Laws.EncodedForm.staZpx _, Laws.EncodedForm.stxZpy _,
    Laws.EncodedForm.tya, Laws.EncodedForm.staAby _, Laws.EncodedForm.txs, Laws.EncodedForm.staAbx _,
    Laws.EncodedForm.ldyImm _, Laws.EncodedForm.ldaIzx _, Laws.EncodedForm.ldxImm _, Laws.EncodedForm.ldyZp _,
    Laws.EncodedForm.ldaZp _, Laws.EncodedForm.ldxZp _, Laws.EncodedForm.tay, Laws.EncodedForm.ldaImm _,
    Laws.EncodedForm.tax, Laws.EncodedForm.ldyAbs _, Laws.EncodedForm.ldaAbs _, Laws.EncodedForm.ldxAbs _,
    Laws.EncodedForm.ldaIzy _, Laws.EncodedForm.ldyZpx _, Laws.EncodedForm.ldaZpx _, Laws.EncodedForm.ldxZpy _,
    Laws.EncodedForm.ldaAby _, Laws.EncodedForm.tsx, Laws.EncodedForm.ldyAbx _, Laws.EncodedForm.ldaAbx _,
    Laws.EncodedForm.ldxAby _]

theorem wf_instr (i : Instr) : i.wf = true := (encodedForm i).1

theorem length_encode (i : Instr) : (encode i).length = instrLength i := (encodedForm i).2.1

theorem encode_eq_cons (i : Instr) : ∃ opc tail, encode i = opc :: tail ∧ opcodeLength opc = some (encode i).length := by
  obtain ⟨-, hlength, hhead⟩ := encodedForm i
  obtain ⟨opc, hopc, hopcLength⟩ := Option.bind_eq_some_iff.1 hhead
  obtain ⟨tail, htail⟩ := List.head?_eq_some_iff.1 hopc
  exact ⟨opc, tail, htail, hopcLength.trans (congrArg some hlength.symm)⟩

theorem opcodeLength_of_encode_append {i : Instr} {rest : List Byte} {opc : Byte} {tail : List Byte}
    (h : encode i ++ rest = opc :: tail) : opcodeLength opc = some (encode i).length := by
  obtain ⟨opc', tail', hencode, hlength⟩ := encode_eq_cons i
  rw [hencode, List.cons_append] at h
  obtain ⟨rfl, -⟩ := List.cons.inj h
  exact hlength

theorem length_encode_cases (i : Instr) :
    (encode i).length = 1 ∨ (encode i).length = 2 ∨ (encode i).length = 3 := by
  rw [length_encode]
  exact formatLength_cases i.format

/-- Settles O4. -/
theorem opcodeByteFixesTheLength : Obligations.OpcodeByteFixesTheLength := by
  intro i
  obtain ⟨opc, tail, hencode, hlength⟩ := encode_eq_cons i
  exact ⟨opc, tail, hencode, hlength, length_encode_cases i⟩

/-- With bytes enough, an opcode that has a length begins an instruction of that length, and the decoder reads it. -/
theorem exists_decode_of_opcodeLength {opc : Byte} {tail : List Byte} {len : Nat} (h : opcodeLength opc = some len)
    (henough : len ≤ (opc :: tail).length) :
    ∃ i rest, decode (opc :: tail) = .ok (i, rest) ∧ (encode i).length = len := by
  obtain ⟨r, hrow, rfl⟩ := Option.map_eq_some_iff.1 h
  obtain ⟨b1, b2, rest, htake⟩ := exists_takeOperands henough
  obtain ⟨i, hassemble⟩ := Option.isSome_iff_exists.1 (assemble_row_isSome (rowOf_some hrow).1 b1 b2)
  have hdecode := decode_of_row hrow htake hassemble
  have hlength := opcodeLength_of_encode_append (decodedBytesAreTheEncoding _ _ _ hdecode).symm
  exact ⟨i, rest, hdecode, Option.some.inj (hlength.symm.trans h)⟩

end Sys2Proof.Machine
end

section
/-! O5: terms. `assemble` answers the instruction whose term has the pair and the operand bytes it was given, and answers for
every pair of the map; so `toInstr?` inverts `toTerm` on the terms that pass the check. -/

namespace Sys2Proof.Machine

/-! ### The check of a term -/

/-- The pairs of the check are the rows of the map (R56). -/
theorem exists_row_iff_mem_formats (m : Mnemonic) (f : Format) :
    (∃ r ∈ opcodeTable, r.mnemonic = m ∧ r.format = f) ↔ f ∈ m.formats := by
  constructor
  · rintro ⟨r, hr, rfl, rfl⟩
    have hformats : ∀ r ∈ opcodeTable, r.format ∈ r.mnemonic.formats := by decide
    exact hformats r hr
  · have hrows : ∀ f ∈ m.formats, ∃ r ∈ opcodeTable, r.mnemonic = m ∧ r.format = f := by cases m <;> decide
    exact hrows f

/-- An operand fits a format: none, a byte or a word, as the format's length has it (R64). -/
theorem fits_iff (o : Operand) (f : Format) : o.fits f = true ↔
    (f = .imp ∧ o = .none) ∨
      (f ∈ [Format.imm, .zp, .zpx, .zpy, .izx, .izy] ∧ ∃ b1, b1 ≤ 0xFF ∧ o = .byte b1) ∨
      (f ∈ [Format.abs, .abx, .aby] ∧ ∃ w, w ≤ 0xFFFF ∧ o = .word w) := by
  cases o <;> cases f <;> simp [Operand.fits]

theorem term_wf_iff (t : Term) :
    t.wf = true ↔ t.format ∈ t.mnemonic.formats ∧ t.operand.fits t.format = true := by
  rw [Term.wf, Bool.and_eq_true, List.contains_iff_mem]

theorem assemble_isSome_of_mem_formats {m : Mnemonic} {f : Format} (h : f ∈ m.formats) (b1 b2 : Byte) :
    (assemble m f b1 b2).isSome = true := by
  obtain ⟨r, hr, rfl, rfl⟩ := (exists_row_iff_mem_formats m f).2 h
  exact assemble_row_isSome hr b1 b2

/-! ### The instruction of a term -/

/-- The operand that a format makes of operand bytes (R52, R53). -/
def operandOf (f : Format) (b1 b2 : Byte) : Operand :=
  match formatLength f with
  | 1 => .none
  | 2 => .byte b1.toNat
  | _ => .word (operandWord b1 b2).toNat

theorem toTerm_of_assemble {m : Mnemonic} {f : Format} {b1 b2 : Byte} {i : Instr} (h : assemble m f b1 b2 = some i) :
    i.toTerm = ⟨m, f, operandOf f b1 b2⟩ := by
  unfold assemble at h
  split at h <;> cases h <;> rfl

/-- The operand bytes `toInstr?` takes from an operand. -/
def operandBytes : Operand → Byte × Byte
  | .none => (0x00, 0x00)
  | .byte b1 => (BitVec.ofNat 8 b1, 0x00)
  | .word w => (lowByte (BitVec.ofNat 16 w), highByte (BitVec.ofNat 16 w))

theorem toInstr?_eq {t : Term} (h : t.operand.fits t.format = true) :
    t.toInstr? = assemble t.mnemonic t.format (operandBytes t.operand).1 (operandBytes t.operand).2 := by
  rw [Term.toInstr?, if_pos h]
  cases t.operand <;> rfl

/-- An operand that fits is not changed by being cut into bytes. -/
theorem operandOf_operandBytes {o : Operand} {f : Format} (h : o.fits f = true) :
    operandOf f (operandBytes o).1 (operandBytes o).2 = o := by
  obtain ⟨rfl, rfl⟩ | ⟨hf, b1, hb1, rfl⟩ | ⟨hf, w, hw, rfl⟩ := (fits_iff o f).1 h
  · rfl
  · have hlen : ∀ f ∈ [Format.imm, .zp, .zpx, .zpy, .izx, .izy], formatLength f = 2 := by decide
    simp [operandOf, hlen f hf, operandBytes, Nat.mod_eq_of_lt (Nat.lt_succ_of_le hb1)]
  · have hlen : ∀ f ∈ [Format.abs, .abx, .aby], formatLength f = 3 := by decide
    simp [operandOf, hlen f hf, operandBytes, operandWord_lowByte_highByte, Nat.mod_eq_of_lt (Nat.lt_succ_of_le hw)]

theorem toTerm_of_toInstr? {t : Term} {i : Instr} (h : t.toInstr? = some i) : i.toTerm = t := by
  by_cases hfits : t.operand.fits t.format = true
  · rw [toInstr?_eq hfits] at h
    rw [toTerm_of_assemble h, operandOf_operandBytes hfits]
  · simp [Term.toInstr?, hfits] at h

theorem exists_toInstr? {t : Term} (h : t.wf = true) : ∃ i, t.toInstr? = some i := by
  obtain ⟨hrow, hfits⟩ := (term_wf_iff t).1 h
  rw [toInstr?_eq hfits]
  exact Option.isSome_iff_exists.1 (assemble_isSome_of_mem_formats hrow _ _)

theorem toInstr?_toTerm (i : Instr) : i.toTerm.toInstr? = some i := by
  obtain ⟨-, hfits⟩ := (term_wf_iff i.toTerm).1 (wf_instr i)
  rw [toInstr?_eq hfits]
  cases i <;> simp [Instr.toTerm, operandBytes, assemble, operandWord_lowByte_highByte]

theorem term_wf_iff_exists (t : Term) : t.wf = true ↔ ∃ i : Instr, i.toTerm = t := by
  constructor
  · intro h
    obtain ⟨i, hi⟩ := exists_toInstr? h
    exact ⟨i, toTerm_of_toInstr? hi⟩
  · rintro ⟨i, rfl⟩
    exact wf_instr i

/-- Settles O5: each clause of R64 is one half of the check, and the check passes exactly the terms of instructions. -/
theorem termIsInstructionWhenRowAndOperandFit : Obligations.TermIsInstructionWhenRowAndOperandFit := by
  intro t
  refine ⟨?_, term_wf_iff_exists t, fun i => ⟨toTerm_of_toInstr?, ?_⟩⟩
  · rw [← term_wf_iff_exists, term_wf_iff, exists_row_iff_mem_formats, fits_iff]
  · rintro rfl
    exact toInstr?_toTerm i

end Sys2Proof.Machine
end

section
/-! O6: assembler text. The first three characters are the mnemonic; the rest is read back by its format, because two digits that
the writer wrote are the two digits that the reader takes. -/

namespace Sys2Proof.Machine

theorem find?_mnemonicText (m : Mnemonic) : mnemonics.find? (fun n => mnemonicText n == mnemonicText m) = some m := by
  cases m <;> decide

theorem take_termText (t : Term) : (termText t).take 3 = mnemonicText t.mnemonic := by
  obtain ⟨m, f, o⟩ := t
  cases m <;> rfl

theorem drop_termText (t : Term) : (termText t).drop 3 = (termText ⟨.lda, t.format, t.operand⟩).drop 3 := by
  obtain ⟨m, f, o⟩ := t
  cases m <;> rfl

/-! ### Digits -/

theorem hexValue_hexDigit {n : Nat} (h : n < 16) : hexValue (hexDigit n) = some n := by
  have hall : ∀ n < 16, hexValue (hexDigit n) = some n := by decide
  exact hall n h

theorem hexPair_hex2 {n : Nat} (h : n ≤ 0xFF) (rest : List Char) : hexPair (hex2 n ++ rest) = some (n, rest) := by
  have hhigh := hexValue_hexDigit (Nat.mod_lt (n / 16) (by decide))
  have hlow := hexValue_hexDigit (Nat.mod_lt n (show 0 < 16 by decide))
  have hsum : n / 16 % 16 * 16 + n % 16 = n := by omega
  simp only [hex2, List.cons_append, List.nil_append, hexPair, hhigh, hlow, hsum]

/-- Two digits and no digit after them: a byte (R62). -/
theorem parseDirect_hex2 {n : Nat} (h : n ≤ 0xFF) {suffix : List Char} (hsuffix : hexPair suffix = none) :
    parseDirect (hex2 n ++ suffix) = (indexSuffix .zp .zpx .zpy suffix).map (fun f => (f, .byte n)) := by
  simp only [parseDirect, hexPair_hex2 h, hsuffix]

/-- Four digits: the word, high byte first (R62). -/
theorem parseDirect_hex4 {w : Nat} (h : w ≤ 0xFFFF) (suffix : List Char) :
    parseDirect (hex4 w ++ suffix) = (indexSuffix .abs .abx .aby suffix).map (fun f => (f, .word w)) := by
  have hhigh : w / 256 ≤ 0xFF := by omega
  have hlow : w % 256 ≤ 0xFF := by omega
  simp only [parseDirect, hex4, List.append_assoc, hexPair_hex2 hhigh, hexPair_hex2 hlow, Nat.div_add_mod']

/-! ### A line -/

/-- What the writer puts after the mnemonic names the format and the operand. -/
theorem parseOperand_drop_termText {t : Term} (h : t.operand.fits t.format = true) :
    parseOperand ((termText t).drop 3) = some (t.format, t.operand) := by
  rw [drop_termText]
  obtain ⟨m, f, o⟩ := t
  obtain ⟨hf, ho⟩ | ⟨hf, b1, hb1, ho⟩ | ⟨hf, w, hw, ho⟩ := (fits_iff o f).1 h
  · subst hf ho
    rfl
  · subst ho
    have hdigits := hexPair_hex2 hb1
    cases f
    case imm =>
      have hend := hdigits []
      simp only [List.append_nil] at hend
      simp [termText, mnemonicText, operandText, parseOperand, hend]
    case izx | izy => simp [termText, mnemonicText, operandText, parseOperand, hdigits]
    case zp =>
      have hdirect := parseDirect_hex2 hb1 (suffix := []) rfl
      rwa [List.append_nil] at hdirect
    case zpx | zpy => exact parseDirect_hex2 hb1 rfl
    all_goals simp at hf
  · subst ho
    cases f
    case abs =>
      have hdirect := parseDirect_hex4 hw []
      rwa [List.append_nil] at hdirect
    case abx | aby => exact parseDirect_hex4 hw _
    all_goals simp at hf

/-- Settles O6: both parts are read back, and the term they make is the instruction's (R64). -/
theorem assemblerTextReadsBack : Obligations.AssemblerTextReadsBack := by
  intro i
  obtain ⟨-, hfits⟩ := (term_wf_iff i.toTerm).1 (wf_instr i)
  rw [parseAsm, asmText, take_termText, find?_mnemonicText, parseOperand_drop_termText hfits]
  exact toInstr?_toTerm i

end Sys2Proof.Machine
end

section
/-! O35 to O39 and O45: the dispatcher (30_encoding.md R59). The fetch answers an instruction exactly when the three bytes
from PC begin with its encoding (`AtPC`); from that follow what a step runs, where PC goes, what a placed word does, and how
far a run moves. -/

namespace Sys2Proof.Machine

open Claims

/-! ### The bytes from PC -/

/-- The bytes at PC and after it, as many as the longest instruction has, each address modulo 65536 (R51, R60). -/
def bytesFromPC (s : State) : List Byte :=
  (List.range Config.longestInstr).map fun k => s.mem.readByte (s.pc.toNat + k)

theorem bytesFromPC_eq (s : State) : bytesFromPC s =
    [s.mem.readByte s.pc.toNat, s.mem.readByte (s.pc.toNat + 1), s.mem.readByte (s.pc.toNat + 2)] := rfl

theorem opcodeLength_cases {opc : Byte} {len : Nat} (h : opcodeLength opc = some len) : len = 1 ∨ len = 2 ∨ len = 3 := by
  obtain ⟨r, -, rfl⟩ := Option.map_eq_some_iff.1 h
  exact formatLength_cases r.format

section Length

variable {s : State} {len : Nat} (h : opcodeLength (fetchOpcode s) = some len)
include h

theorem fetchBytes_eq_take : fetchBytes s = (bytesFromPC s).take len := by
  obtain rfl | rfl | rfl := opcodeLength_cases h <;> simp only [fetchBytes, h] <;> rfl

theorem fetchAccesses_eq_take : fetchAccesses s = [Access.read s.pc, .read (s.pc + 1), .read (s.pc + 2)].take len := by
  obtain rfl | rfl | rfl := opcodeLength_cases h <;> simp only [fetchAccesses, h] <;> rfl

end Length

/-! ### What is fetched -/

/-- The bytes from PC begin with the instruction's encoding. -/
def AtPC (i : Instr) (s : State) : Prop := encode i <+: bytesFromPC s

theorem AtPC.encode_eq_take {i : Instr} {s : State} (h : AtPC i s) :
    encode i = (bytesFromPC s).take (encode i).length :=
  List.prefix_iff_eq_take.1 h

/-- The byte at PC is the instruction's opcode, which has the instruction's length. -/
theorem opcodeLength_of_atPC {s : State} {i : Instr} (h : AtPC i s) :
    opcodeLength (fetchOpcode s) = some (encode i).length := by
  obtain ⟨rest, hrest⟩ := h
  exact opcodeLength_of_encode_append hrest

theorem fetchBytes_of_atPC {s : State} {i : Instr} (h : AtPC i s) : fetchBytes s = encode i :=
  (fetchBytes_eq_take (opcodeLength_of_atPC h)).trans h.encode_eq_take.symm

theorem fetch_of_atPC {s : State} {i : Instr} (h : AtPC i s) : fetch s = .ok i := by
  have hdecode := decodeOfEncodeIsIdentity i []
  rw [List.append_nil] at hdecode
  simp only [fetch, fetchBytes_of_atPC h, hdecode]

/-- An opcode with a length begins an instruction, whose encoding the bytes from PC begin with. -/
theorem exists_atPC_of_opcodeLength {s : State} {len : Nat} (h : opcodeLength (fetchOpcode s) = some len) :
    ∃ i, AtPC i s ∧ (encode i).length = len := by
  have henough : len ≤ (bytesFromPC s).length := by
    obtain rfl | rfl | rfl := opcodeLength_cases h <;> simp [bytesFromPC_eq]
  obtain ⟨i, rest, hdecode, hlength⟩ := exists_decode_of_opcodeLength h henough
  exact ⟨i, ⟨rest, (decodedBytesAreTheEncoding _ _ _ hdecode).symm⟩, hlength⟩

theorem fetch_of_undefined {s : State} (h : opcodeLength (fetchOpcode s) = none) :
    fetch s = .error (.undefinedOpcode (fetchOpcode s)) := by
  simp only [fetch, fetchBytes, h, decode_of_undefined h]

theorem atPC_of_fetch {s : State} {i : Instr} (h : fetch s = .ok i) : AtPC i s := by
  cases hlength : opcodeLength (fetchOpcode s) with
  | none => simp [fetch_of_undefined hlength] at h
  | some len =>
    obtain ⟨j, hat, -⟩ := exists_atPC_of_opcodeLength hlength
    obtain rfl : j = i := by simpa [fetch_of_atPC hat] using h
    exact hat

/-! ### What a step runs -/

theorem advancePC_instrLength (i : Instr) (s : State) :
    advancePC (instrLength i) s = { s with pc := s.pc + BitVec.ofNat 16 (encode i).length } := by
  rw [length_encode]
  rfl

/-- R60: the sum as words is the sum as numbers, modulo 65536. -/
theorem add_ofNat_eq (p : Word) (len : Nat) : p + BitVec.ofNat 16 len = BitVec.ofNat 16 ((p.toNat + len) % 65536) := by
  apply BitVec.eq_of_toNat_eq
  simp [BitVec.toNat_add]

theorem step_of_atPC {s : State} {i : Instr} (h : AtPC i s) :
    step s = exec i { s with pc := s.pc + BitVec.ofNat 16 (encode i).length } := by
  rw [step_of_fetch (fetch_of_atPC h), advancePC_instrLength]

theorem stepAccesses_of_atPC {s : State} {i : Instr} (h : AtPC i s) :
    stepAccesses s = [Access.read s.pc, .read (s.pc + 1), .read (s.pc + 2)].take (encode i).length ++
      accesses i { s with pc := s.pc + BitVec.ofNat 16 (encode i).length } := by
  rw [stepAccesses_of_fetch (fetch_of_atPC h), advancePC_instrLength, fetchAccesses_eq_take (opcodeLength_of_atPC h)]

theorem step_of_undefined {s : State} (h : opcodeLength (fetchOpcode s) = none) :
    step s = .refused (.undecodable (.undefinedOpcode (fetchOpcode s))) :=
  step_of_fetch_error (fetch_of_undefined h)

/-- Settles O35. -/
theorem stepRunsTheDecodedInstruction : Obligations.StepRunsTheDecodedInstruction :=
  fun _ _ rest h => step_of_atPC ⟨rest, (decodedBytesAreTheEncoding _ _ _ h).symm⟩

/-- Settles O36: an opcode with a length has an instruction at PC, and the step and its accesses are those of that instruction. -/
theorem stepIsTheReferenceDispatcher : Obligations.StepIsTheReferenceDispatcher := by
  intro s
  refine ⟨step_of_undefined, fun len hlen => ?_⟩
  obtain ⟨i, hat, rfl⟩ := exists_atPC_of_opcodeLength hlen
  rw [← add_ofNat_eq, ← readByte_congr (Nat.mod_modEq (s.pc.toNat + 1) 65536).symm,
    ← readByte_congr (Nat.mod_modEq (s.pc.toNat + 2) 65536).symm]
  exact ⟨i, hat.encode_eq_take, step_of_atPC hat, stepAccesses_of_atPC hat⟩

/-! ### Where PC goes -/

theorem step_next_atPC {s t : State} (h : step s = .next t) : ∃ i, AtPC i s ∧
    t.pc = s.pc + BitVec.ofNat 16 (encode i).length := by
  obtain ⟨i, hfetch, hexec⟩ := step_next h
  refine ⟨i, atPC_of_fetch hfetch, ?_⟩
  rw [exec_keeps_pc hexec, advancePC_instrLength]

/-- Settles O37. -/
theorem stepAdvancesPCByTheLength : Obligations.StepAdvancesPCByTheLength := by
  intro s t hstep
  obtain ⟨i, hat, hpc⟩ := step_next_atPC hstep
  have hlength := opcodeLength_of_atPC hat
  have hbytes := fetchBytes_eq_take hlength
  generalize (encode i).length = len at *
  have hcases := opcodeLength_cases hlength
  refine ⟨len, hlength, by omega, by omega, ?_, ?_, ?_⟩
  · rw [hpc, add_ofNat_eq, BitVec.toNat_ofNat]
    omega
  · rintro htop rfl
    rw [hpc, hbytes, bytesFromPC_eq, htop]
    exact ⟨rfl, rfl⟩
  · rintro htop rfl
    rw [hpc, hbytes, bytesFromPC_eq, htop]
    exact ⟨rfl, rfl⟩

/-- Settles O45: by induction on the number of steps, each of which adds its length. -/
theorem runsAdvancePCSequentially : Obligations.RunsAdvancePCSequentially := by
  intro n
  induction n with
  | zero =>
    intro s t h
    obtain rfl := completesIn_zero.1 h
    exact ⟨0, le_rfl, le_rfl, (Nat.mod_eq_of_lt t.pc.isLt).symm⟩
  | succ n ih =>
    intro s t h
    obtain ⟨u, hstep, hrest⟩ := completesIn_succ.1 h
    obtain ⟨len, -, hpos, hle, hpc, -, -⟩ := stepAdvancesPCByTheLength s u hstep
    obtain ⟨k, hk, hk', hpc'⟩ := ih u t hrest
    exact ⟨len + k, by omega, by omega, by omega⟩

/-! ### Undefined bytes -/

/-- The bytes R58 lists are those that are no row's opcode. -/
theorem undefinedByte_iff (opc : Byte) : undefinedByte opc.toNat = true ↔ opcodeLength opc = none := by
  have hdigits : ∀ high < 16, ∀ low < 16,
      undefinedByte (high * 16 + low) = (opcodeLength (BitVec.ofNat 8 (high * 16 + low))).isNone := by decide
  have hbyte := hdigits (opc.toNat / 16) (by omega) (opc.toNat % 16) (by omega)
  rw [Nat.div_add_mod', BitVec.ofNat_toNat, BitVec.setWidth_eq] at hbyte
  rw [hbyte, Option.isNone_iff_eq_none]

theorem stepAccesses_of_undefined {s : State} (h : opcodeLength (fetchOpcode s) = none) :
    stepAccesses s = [.read s.pc] := by
  simp only [stepAccesses, fetch_of_undefined h, fetchAccesses, h]

theorem exists_step_next {s : State} (h : opcodeLength (fetchOpcode s) ≠ none) : ∃ t, step s = .next t := by
  obtain ⟨len, hlen⟩ := Option.ne_none_iff_exists'.1 h
  obtain ⟨i, hat, -⟩ := exists_atPC_of_opcodeLength hlen
  rw [step_of_atPC hat, exec_eq_operate]
  exact ⟨_, rfl⟩

/-- Settles O38. -/
theorem undefinedOpcodesAreRefused : Obligations.UndefinedOpcodesAreRefused := by
  refine ⟨rfl, fun opc rest h => decode_of_undefined ((undefinedByte_iff opc).1 h) rest,
    fun s => ⟨fun h => ?_, fun h => ?_⟩⟩
  · have hundefined := (undefinedByte_iff (fetchOpcode s)).1 h
    exact ⟨step_of_undefined hundefined, stepAccesses_of_undefined hundefined⟩
  · refine exists_step_next fun hundefined => ?_
    simp [fetchOpcode, ← undefinedByte_iff, h] at hundefined

/-! ### A placed word -/

/-- Placing bytes leaves the addresses they are not placed at. -/
theorem readByte_placeBytes_of_ne {bs : List Byte} {addr b : Nat} (hb : ∀ k < bs.length, ¬ b ≡ addr + k [MOD 65536])
    (m : Memory) : (placeBytes bs addr m).readByte b = m.readByte b := by
  induction bs generalizing addr m with
  | nil => rfl
  | cons v bs ih =>
    have htail : ∀ k < bs.length, ¬ b ≡ addr + 1 + k [MOD 65536] := by
      intro k hk
      rw [Nat.add_assoc, Nat.add_comm 1 k]
      exact hb (k + 1) (Nat.succ_lt_succ hk)
    exact (ih htail _).trans ((readByte_writeByte m addr v.toNat b).trans (if_neg (hb 0 (Nat.succ_pos _))))

/-- Bytes placed in memory are there, when there are no more of them than addresses. -/
theorem readByte_placeBytes {bs : List Byte} (hfit : bs.length ≤ 65536) (addr : Nat) (m : Memory) {k : Nat}
    (hk : k < bs.length) : (placeBytes bs addr m).readByte (addr + k) = bs[k] := by
  induction bs generalizing addr m k with
  | nil => simp at hk
  | cons v bs ih =>
    rw [List.length_cons] at hfit hk
    cases k with
    | zero =>
      have hne : ∀ k < bs.length, ¬ addr ≡ addr + 1 + k [MOD 65536] := by
        intro k hk
        rw [Nat.ModEq]
        omega
      calc (placeBytes (v :: bs) addr m).readByte addr
          = (m.writeByte addr v.toNat).2.readByte addr := readByte_placeBytes_of_ne hne _
        _ = BitVec.ofNat 8 v.toNat := (readByte_writeByte m addr v.toNat addr).trans (if_pos (.refl addr))
        _ = v := by rw [BitVec.ofNat_toNat, BitVec.setWidth_eq]
    | succ k =>
      have hplaced := ih (Nat.le_of_succ_le hfit) (addr + 1) (m.writeByte addr v.toNat).2 (Nat.lt_of_succ_lt_succ hk)
      rwa [Nat.add_assoc, Nat.add_comm 1 k] at hplaced

theorem ownBytes_encode_append (i : Instr) (rest : List Byte) : ownBytes (encode i ++ rest) = encode i := by
  obtain ⟨opc, tail, hencode, hlength⟩ := encode_eq_cons i
  calc ownBytes (encode i ++ rest) = (encode i ++ rest).take ((opcodeLength opc).getD 1) := by rw [hencode]; rfl
    _ = encode i := by rw [hlength, Option.getD_some, List.take_left]

theorem ownBytes_of_decodeTableWord {nbits w : Nat} {i : Instr} (h : decodeTableWord nbits w = some i) :
    ownBytes (tableBytes nbits w) = encode i := by
  unfold decodeTableWord at h
  split at h
  · rename_i j rest hdecode
    cases h
    rw [decodedBytesAreTheEncoding _ _ _ hdecode, ownBytes_encode_append]
  · simp at h

theorem atPC_withFetchWord {nbits w : Nat} {i : Instr} (h : decodeTableWord nbits w = some i) (s : State) :
    AtPC i (s.withFetchWord nbits w) := by
  have hlen : (encode i).length ≤ 3 := by
    have := length_encode_cases i
    omega
  refine List.prefix_iff_getElem.2 ⟨hlen, fun k hk => ?_⟩
  have hplaced := readByte_placeBytes (hlen.trans (by decide)) s.pc.toNat s.mem hk
  simpa [bytesFromPC, State.withFetchWord, ownBytes_of_decodeTableWord h] using hplaced.symm

/-- Settles O39: the word's own bytes are its instruction's encoding, and they are placed at PC. -/
theorem placedWordIsTheNextInstruction : Obligations.PlacedWordIsTheNextInstruction :=
  fun s _ _ _ h => step_of_atPC (atPC_withFetchWord h s)

end Sys2Proof.Machine
end

section
/-! O13: effective addresses as numbers. Each format is one of three: a byte sum inside the zero page, a word sum inside memory, or a
pointer read from the zero page (40_addressing_modes.md R72 to R79). -/

namespace Sys2Proof.Machine

open Claims

/-! ### The sums -/

/-- R73, R74, R78: the index is added in 8 bits, so the sum stays in the zero page. -/
theorem zext16_add_toNat (b index : Byte) : (zext16 (b + index)).toNat = (b.toNat + index.toNat) % 256 := by
  rw [zext16_toNat, BitVec.toNat_add]

/-- R76, R77, R79: the index is added in 16 bits, so the sum wraps at the top of memory. -/
theorem add_zext16_toNat (w : Word) (index : Byte) : (w + zext16 index).toNat = (w.toNat + index.toNat) % 65536 := by
  rw [BitVec.toNat_add, zext16_toNat]

/-! ### The zero page and its pointers -/

theorem zext16_toNat_le (b : Byte) : (zext16 b).toNat ≤ 0xFF := by
  rw [zext16_toNat]
  exact Nat.le_of_lt_succ b.isLt

/-- The high byte of a pointer lies above the zero page at most by one address (R84; 92_eei_decisions.md D9). -/
theorem zext16_add_one_toNat_le (b : Byte) : (zext16 b + 1).toNat ≤ 0x100 :=
  calc (zext16 b + 1).toNat
    _ ≤ (zext16 b).toNat + 1 := by
      rw [BitVec.toNat_add]
      exact Nat.mod_le _ _
    _ ≤ 0x100 := Nat.succ_le_succ (zext16_toNat_le b)

theorem pointerAt_toNat (p : Word) (s : State) : (pointerAt p s).toNat = pointer s p.toNat := readWord_toNat s.mem p.toNat

/-- R78. -/
theorem izxEA_toNat (b1 : Byte) (s : State) : (izxEA b1 s).toNat = pointer s ((b1.toNat + s.x.toNat) % 256) := by
  rw [izxEA, pointerAt_toNat, izxPointer, zext16_add_toNat]

/-- R79. -/
theorem izyEA_toNat (b1 : Byte) (s : State) : (izyEA b1 s).toNat = (pointer s b1.toNat + s.y.toNat) % 65536 := by
  rw [izyEA, add_zext16_toNat, pointerAt_toNat, izyPointer, zext16_toNat]

/-- Settles O13: format by format, then the ranges of the addresses and pointers that are one byte extended. -/
theorem effectiveAddressesAreTheSpecsSums : Obligations.EffectiveAddressesAreTheSpecsSums := by
  intro s b1 w
  exact ⟨zext16_toNat b1, zext16_add_toNat b1 s.x, zext16_add_toNat b1 s.y, rfl, add_zext16_toNat w s.x,
    add_zext16_toNat w s.y, izxEA_toNat b1 s, izyEA_toNat b1 s,
    zext16_toNat_le b1, zext16_toNat_le (b1 + s.x), zext16_toNat_le (b1 + s.y),
    zext16_toNat_le (b1 + s.x), zext16_add_one_toNat_le (b1 + s.x), zext16_toNat_le b1, zext16_add_one_toNat_le b1⟩

end Sys2Proof.Machine
end

section
/-! O31: the order of accesses (40_addressing_modes.md R81). An instruction's accesses are the pointer reads of its format and then
the data access of its mnemonic; each of the two lists is described alone. -/

namespace Sys2Proof.Machine

open Claims

/-! ### The pointer reads of a format -/

theorem exists_pointerReadsOf_eq_map (f : Format) (o : Operand) (s : State) :
    ∃ reads : List Word, pointerReadsOf f o s = reads.map Access.read ∧ reads.length ≤ 2 := by
  cases f
  case izx | izy => exact ⟨[_, _], rfl, le_rfl⟩
  all_goals exact ⟨[], rfl, Nat.zero_le 2⟩

/-- R78, R79, R84: an indirect format reads one pointer, which begins in the zero page. -/
theorem exists_pointerReadsOf_eq_pointerReads {f : Format} (hf : f = .izx ∨ f = .izy) (o : Operand) (s : State) :
    ∃ p, pointerReadsOf f o s = pointerReads p ∧ p.toNat ≤ 0xFF := by
  obtain rfl | rfl := hf
  · exact ⟨izxPointer (operandB1 o) s, rfl, zext16_toNat_le _⟩
  · exact ⟨izyPointer (operandB1 o), rfl, zext16_toNat_le _⟩

/-! ### The data access of a mnemonic -/

section DataAccess

variable {m : Mnemonic} {f : Format} (ea : Word) (s : State)

theorem dataAccess_of_mem_loads (hm : m ∈ loads) (hf : f ≠ .imm) : dataAccess m f ea s = [.read ea] := by
  cases m
  case lda | ldx | ldy => exact if_neg hf
  all_goals simp [loads] at hm

theorem dataAccess_of_mem_stores (hm : m ∈ stores) : ∃ v, dataAccess m f ea s = [.write ea v] := by
  cases m
  case sta | stx | sty => exact ⟨_, rfl⟩
  all_goals simp [stores] at hm

theorem dataAccess_eq_nil (hload : ¬ (m ∈ loads ∧ f ≠ .imm)) (hstore : m ∉ stores) : dataAccess m f ea s = [] := by
  cases m
  case lda | ldx | ldy => exact if_pos (by simpa [loads] using hload)
  case sta | stx | sty => simp [stores] at hstore
  all_goals rfl

/-- The data access is a read, a write, or none (R81). -/
theorem exists_dataAccess_eq_reads_append_writes (m : Mnemonic) (f : Format) :
    ∃ (reads : List Word) (writes : List (Word × Byte)),
      dataAccess m f ea s = reads.map Access.read ++ writes.map (fun w => .write w.1 w.2) ∧
        reads.length ≤ 1 ∧ writes.length ≤ 1 := by
  by_cases hload : m ∈ loads ∧ f ≠ .imm
  · obtain ⟨hm, hf⟩ := hload
    exact ⟨[ea], [], dataAccess_of_mem_loads ea s hm hf, le_rfl, zero_le_one⟩
  by_cases hstore : m ∈ stores
  · obtain ⟨v, hv⟩ := dataAccess_of_mem_stores (f := f) ea s hstore
    exact ⟨[], [(ea, v)], hv, zero_le_one, le_rfl⟩
  · exact ⟨[], [], dataAccess_eq_nil ea s hload hstore, zero_le_one, zero_le_one⟩

/-- Among the rows of R56, the formats without an address are the ones without a data access: each format of each mnemonic is one
row. -/
theorem length_dataAccess (hf : f ∈ m.formats) :
    (dataAccess m f ea s).length = if f = .imp ∨ f = .imm then 0 else 1 := by
  revert f
  cases m <;> simp [Mnemonic.formats, dataAccess]

end DataAccess

/-! ### The accesses of an instruction -/

theorem length_accesses (i : Instr) (s : State) : (accesses i s).length = accessCount i.format := by
  rw [accesses_eq, List.length_append, length_dataAccess _ s (format_mem_formats i)]
  cases i.format <;> rfl

theorem accesses_of_indirect {i : Instr} (hf : i.format = .izx ∨ i.format = .izy) (s : State) :
    ∃ p data, accesses i s = [.read p, .read (p + 1), data] ∧ p.toNat ≤ 0xFF := by
  obtain ⟨p, hp, hle⟩ := exists_pointerReadsOf_eq_pointerReads hf i.toTerm.operand s
  have hlength : (dataAccess i.mnemonic i.format (addressOf i.format i.toTerm.operand s) s).length = 1 := by
    rw [length_dataAccess _ s (format_mem_formats i)]
    rcases hf with hf | hf <;> simp [hf]
  obtain ⟨data, hdata⟩ := List.length_eq_one_iff.1 hlength
  exact ⟨p, data, by rw [accesses_eq, hp, hdata]; rfl, hle⟩

theorem exists_accesses_eq_reads_append_writes (i : Instr) (s : State) :
    ∃ (reads : List Word) (writes : List (Word × Byte)),
      accesses i s = reads.map Access.read ++ writes.map (fun w => .write w.1 w.2) ∧
        reads.length ≤ 3 ∧ writes.length ≤ 1 := by
  obtain ⟨pointers, hpointers, hp⟩ := exists_pointerReadsOf_eq_map i.format i.toTerm.operand s
  obtain ⟨reads, writes, hdata, hr, hw⟩ :=
    exists_dataAccess_eq_reads_append_writes (addressOf i.format i.toTerm.operand s) s i.mnemonic i.format
  refine ⟨pointers ++ reads, writes, ?_, ?_, hw⟩
  · rw [accesses_eq, hpointers, hdata, List.map_append, List.append_assoc]
  · rw [List.length_append]
    omega

/-- Settles O31: in the list of `accesses_eq` the pointer comes first and the data last. -/
theorem accessesComeInTheSpecsOrder : Obligations.AccessesComeInTheSpecsOrder := by
  intro i s
  refine ⟨length_accesses i s, exists_accesses_eq_reads_append_writes i s, fun hf => accesses_of_indirect hf s,
    fun hm hf => ?_, fun hm => ?_⟩
  · exact ⟨_, _, by rw [accesses_eq, dataAccess_of_mem_loads _ s hm hf]⟩
  · obtain ⟨v, hv⟩ := dataAccess_of_mem_stores (f := i.format) (addressOf i.format i.toTerm.operand s) s hm
    exact ⟨_, _, v, by rw [accesses_eq, hv]⟩

end Sys2Proof.Machine
end

section
/-! O16 to O18: the loads. A load writes the value of its mode to its register (R100), and the mode is one of three: the operand byte
itself, the byte at an address the operand gives, or the byte at an address read from a pointer. Each is said once, for any register
and any instruction of that mode. -/

namespace Sys2Proof.Machine

open Claims

/-! ### The bytes of an instruction -/

theorem encodedAs_of_encode {i : Instr} {bytes : List Byte} (h : encode i = bytes) : EncodedAs i bytes :=
  ⟨h, fun rest => h ▸ decodeOfEncodeIsIdentity i rest⟩

/-- R53: the operand word is encoded low byte first. -/
theorem encodedAs_of_encode_word {i : Instr} {opc b1 b2 : Byte}
    (h : encode i = [opc, lowByte (operandWord b1 b2), highByte (operandWord b1 b2)]) : EncodedAs i [opc, b1, b2] := by
  rw [lowByte_operandWord, highByte_operandWord] at h
  exact encodedAs_of_encode h

/-! ### A register written with its flags -/

theorem putA_eq_loadedA (v : Byte) (s : State) : putA v s = loadedA v s := setNZ_eq_writeNZ v (s.writeA v)

theorem putX_eq_loadedX (v : Byte) (s : State) : putX v s = loadedX v s := setNZ_eq_writeNZ v (s.writeX v)

theorem putY_eq_loadedY (v : Byte) (s : State) : putY v s = loadedY v s := setNZ_eq_writeNZ v (s.writeY v)

/-! ### The address of an operand word -/

theorem absEA_toNat (b1 b2 : Byte) : (absEA (b2 ++ b1)).toNat = wordAt b1 b2 := operandWord_toNat b1 b2

theorem abxEA_toNat (b1 b2 : Byte) (s : State) :
    (abxEA (b2 ++ b1) s).toNat = (wordAt b1 b2 + s.x.toNat) % 65536 := by
  rw [abxEA, add_zext16_toNat, ← absEA_toNat, absEA]

theorem abyEA_toNat (b1 b2 : Byte) (s : State) :
    (abyEA (b2 ++ b1) s).toNat = (wordAt b1 b2 + s.y.toNat) % 65536 := by
  rw [abyEA, add_zext16_toNat, ← absEA_toNat, absEA]

/-! ### Reads at addresses written as numbers -/

theorem readsAt_toNat (ea : Word) : readsAt [ea.toNat] = [.read ea] := by
  simp [readsAt]

theorem readsAt_pointer_toNat (p ea : Word) : readsAt [p.toNat, p.toNat + 1, ea.toNat] = pointerReads p ++ [.read ea] := by
  simp [readsAt, pointerReads, BitVec.ofNat_add]

/-! ### The three kinds of mode -/

section Load

variable {put loaded : Byte → State → State} (hput : ∀ v s, put v s = loaded v s)
  {i : Instr} {bytes : List Byte} (hbytes : EncodedAs i bytes) {s : State}
include hput hbytes

/-- The value is the operand byte, and nothing is read (R71). -/
theorem runsTo_load_immediate {v : Byte} (hexec : exec i s = .next (put v s)) (haccesses : accesses i s = []) :
    RunsTo i bytes [] s (loaded v s) :=
  ⟨hbytes, hput v s ▸ hexec, haccesses⟩

/-- The value is the byte at the effective address, the one byte read (R72 to R77). -/
theorem runsTo_load_direct {ea : Word} {n : Nat} (hexec : exec i s = .next (put (memValue ea s) s))
    (haccesses : accesses i s = [.read ea]) (hea : ea.toNat = n) :
    RunsTo i bytes [n] s (loaded (s.mem.readByte n) s) := by
  subst hea
  exact ⟨hbytes, hput _ s ▸ hexec, haccesses.trans (readsAt_toNat ea).symm⟩

/-- As the direct modes, after the two bytes of the pointer are read (R78, R79). -/
theorem runsTo_load_indirect {p ea : Word} {q n : Nat} (hexec : exec i s = .next (put (memValue ea s) s))
    (haccesses : accesses i s = pointerReads p ++ [.read ea]) (hp : p.toNat = q) (hea : ea.toNat = n) :
    RunsTo i bytes [q, q + 1, n] s (loaded (s.mem.readByte n) s) := by
  subst hp hea
  exact ⟨hbytes, hput _ s ▸ hexec, haccesses.trans (readsAt_pointer_toNat p ea).symm⟩

end Load

/-! ### The loads -/

/-- Settles O16, mode by mode: the address of each is the sum or the pointer of O13. -/
theorem loadAccumulatorInEveryMode : Obligations.LoadAccumulatorInEveryMode := by
  intro s b1 b2
  refine ⟨?imm, ?zp, ?zpx, ?abs, ?abx, ?aby, ?izx, ?izy⟩
  case imm => exact runsTo_load_immediate putA_eq_loadedA (encodedAs_of_encode rfl) rfl rfl
  case zp => exact runsTo_load_direct putA_eq_loadedA (encodedAs_of_encode rfl) rfl rfl (zext16_toNat b1)
  case zpx => exact runsTo_load_direct putA_eq_loadedA (encodedAs_of_encode rfl) rfl rfl (zext16_add_toNat b1 s.x)
  case abs => exact runsTo_load_direct putA_eq_loadedA (encodedAs_of_encode_word rfl) rfl rfl (absEA_toNat b1 b2)
  case abx => exact runsTo_load_direct putA_eq_loadedA (encodedAs_of_encode_word rfl) rfl rfl (abxEA_toNat b1 b2 s)
  case aby => exact runsTo_load_direct putA_eq_loadedA (encodedAs_of_encode_word rfl) rfl rfl (abyEA_toNat b1 b2 s)
  case izx =>
    exact runsTo_load_indirect putA_eq_loadedA (encodedAs_of_encode rfl) rfl rfl (zext16_add_toNat b1 s.x) (izxEA_toNat b1 s)
  case izy =>
    exact runsTo_load_indirect putA_eq_loadedA (encodedAs_of_encode rfl) rfl rfl (zext16_toNat b1) (izyEA_toNat b1 s)

/-- Settles O17: as O16, the index being Y. -/
theorem loadXInEveryMode : Obligations.LoadXInEveryMode := by
  intro s b1 b2
  refine ⟨?imm, ?zp, ?zpy, ?abs, ?aby⟩
  case imm => exact runsTo_load_immediate putX_eq_loadedX (encodedAs_of_encode rfl) rfl rfl
  case zp => exact runsTo_load_direct putX_eq_loadedX (encodedAs_of_encode rfl) rfl rfl (zext16_toNat b1)
  case zpy => exact runsTo_load_direct putX_eq_loadedX (encodedAs_of_encode rfl) rfl rfl (zext16_add_toNat b1 s.y)
  case abs => exact runsTo_load_direct putX_eq_loadedX (encodedAs_of_encode_word rfl) rfl rfl (absEA_toNat b1 b2)
  case aby => exact runsTo_load_direct putX_eq_loadedX (encodedAs_of_encode_word rfl) rfl rfl (abyEA_toNat b1 b2 s)

/-- Settles O18: as O16, the index being X. -/
theorem loadYInEveryMode : Obligations.LoadYInEveryMode := by
  intro s b1 b2
  refine ⟨?imm, ?zp, ?zpx, ?abs, ?abx⟩
  case imm => exact runsTo_load_immediate putY_eq_loadedY (encodedAs_of_encode rfl) rfl rfl
  case zp => exact runsTo_load_direct putY_eq_loadedY (encodedAs_of_encode rfl) rfl rfl (zext16_toNat b1)
  case zpx => exact runsTo_load_direct putY_eq_loadedY (encodedAs_of_encode rfl) rfl rfl (zext16_add_toNat b1 s.x)
  case abs => exact runsTo_load_direct putY_eq_loadedY (encodedAs_of_encode_word rfl) rfl rfl (absEA_toNat b1 b2)
  case abx => exact runsTo_load_direct putY_eq_loadedY (encodedAs_of_encode_word rfl) rfl rfl (abxEA_toNat b1 b2 s)

end Sys2Proof.Machine
end

section
/-! O19 to O21: the stores. A store of any register in any mode is `storeByte` at the effective address (R130), and the frame of
`storeByte` is the store's; a mode only says which address that is and whether a pointer is read for it. -/

namespace Sys2Proof.Machine

open Claims

theorem readsAt_pointer (p : Word) : readsAt [p.toNat, p.toNat + 1] = pointerReads p := by
  simp [readsAt, pointerReads, BitVec.ofNat_add]

/-! ### The two kinds of mode -/

section Store

variable {i : Instr} {bytes : List Byte} (hbytes : EncodedAs i bytes) {s : State} {ea : Word} {v : Byte}
  (hexec : exec i s = .next (storeByte ea v s))
include hbytes hexec

theorem storesTo_of_exec {reads : List Nat} (haccesses : accesses i s = readsAt reads ++ [.write ea v]) :
    StoresTo i bytes reads ea v s :=
  ⟨hbytes, haccesses, storeByte ea v s, hexec, rfl, readByte_storeByte_same ea v s,
    fun _ hne => readByte_storeByte_of_ne hne.symm v s⟩

/-- The write is the one access (R72 to R77). -/
theorem storesTo_direct (haccesses : accesses i s = [.write ea v]) : StoresTo i bytes [] ea v s :=
  storesTo_of_exec hbytes hexec haccesses

/-- The two bytes of the pointer are read before the write (R78, R79, R81). -/
theorem storesTo_indirect {p : Word} {q : Nat} (haccesses : accesses i s = pointerReads p ++ [.write ea v])
    (hp : p.toNat = q) : StoresTo i bytes [q, q + 1] ea v s := by
  subst hp
  exact storesTo_of_exec hbytes hexec (readsAt_pointer p ▸ haccesses)

end Store

/-! ### The stores -/

/-- Settles O19, mode by mode: the address of each is the sum or the pointer of O13. -/
theorem storeAccumulatorInEveryMode : Obligations.StoreAccumulatorInEveryMode := by
  intro s b1 b2
  refine ⟨?zp, ?zpx, ?abs, ?abx, ?aby, ?izx, ?izy⟩
  case zp => exact ⟨zext16_toNat b1, storesTo_direct (encodedAs_of_encode rfl) rfl rfl⟩
  case zpx => exact ⟨zext16_add_toNat b1 s.x, storesTo_direct (encodedAs_of_encode rfl) rfl rfl⟩
  case abs => exact ⟨absEA_toNat b1 b2, storesTo_direct (encodedAs_of_encode_word rfl) rfl rfl⟩
  case abx => exact ⟨abxEA_toNat b1 b2 s, storesTo_direct (encodedAs_of_encode_word rfl) rfl rfl⟩
  case aby => exact ⟨abyEA_toNat b1 b2 s, storesTo_direct (encodedAs_of_encode_word rfl) rfl rfl⟩
  case izx =>
    exact ⟨izxEA_toNat b1 s, storesTo_indirect (encodedAs_of_encode rfl) rfl rfl (zext16_add_toNat b1 s.x)⟩
  case izy => exact ⟨izyEA_toNat b1 s, storesTo_indirect (encodedAs_of_encode rfl) rfl rfl (zext16_toNat b1)⟩

/-- Settles O20: as O19, the index being Y. -/
theorem storeXInEveryMode : Obligations.StoreXInEveryMode := by
  intro s b1 b2
  refine ⟨?zp, ?zpy, ?abs⟩
  case zp => exact ⟨zext16_toNat b1, storesTo_direct (encodedAs_of_encode rfl) rfl rfl⟩
  case zpy => exact ⟨zext16_add_toNat b1 s.y, storesTo_direct (encodedAs_of_encode rfl) rfl rfl⟩
  case abs => exact ⟨absEA_toNat b1 b2, storesTo_direct (encodedAs_of_encode_word rfl) rfl rfl⟩

/-- Settles O21: as O19, the index being X. -/
theorem storeYInEveryMode : Obligations.StoreYInEveryMode := by
  intro s b1 b2
  refine ⟨?zp, ?zpx, ?abs⟩
  case zp => exact ⟨zext16_toNat b1, storesTo_direct (encodedAs_of_encode rfl) rfl rfl⟩
  case zpx => exact ⟨zext16_add_toNat b1 s.x, storesTo_direct (encodedAs_of_encode rfl) rfl rfl⟩
  case abs => exact ⟨absEA_toNat b1 b2, storesTo_direct (encodedAs_of_encode_word rfl) rfl rfl⟩

end Sys2Proof.Machine
end

section
/-! O22 to O24: the transfers. A transfer is an instruction of the implied format: it makes no access, whatever its registers are, and
what is left of it is the register it writes. TXS writes it with its flags, as TAX, TAY, TXA and TYA do, and TSX writes it alone
(R150, R155, R156). -/

namespace Sys2Proof.Machine

open Claims

theorem putSP_eq_loadedSP (v : Byte) (s : State) : putSP v s = loadedSP v s := setNZ_eq_writeNZ v (s.writeSP v)

/-- R70: the implied format names no byte of memory. -/
theorem accesses_eq_nil_of_imp {i : Instr} (hf : i.format = .imp) (s : State) : accesses i s = [] := by
  have hlength : (accesses i s).length = 0 := by
    rw [length_accesses, hf]
    rfl
  exact List.length_eq_zero_iff.1 hlength

/-- An instruction of the implied format runs to any state `t` that equals the state `u` of its meaning. -/
theorem runsTo_implied {i : Instr} {bytes : List Byte} {s t u : State} (hf : i.format = .imp) (hbytes : encode i = bytes)
    (hexec : exec i s = .next u) (hu : u = t) : RunsTo i bytes [] s t := by
  subst hu
  exact ⟨encodedAs_of_encode hbytes, hexec, accesses_eq_nil_of_imp hf s⟩

/-- Settles O22: each writes its register with its flags. -/
theorem transfersCopyAndSetNZ : Obligations.TransfersCopyAndSetNZ := by
  intro s
  refine ⟨?tax, ?tay, ?txa, ?tya⟩
  case tax => exact runsTo_implied rfl rfl rfl (putX_eq_loadedX s.a s)
  case tay => exact runsTo_implied rfl rfl rfl (putY_eq_loadedY s.a s)
  case txa => exact runsTo_implied rfl rfl rfl (putA_eq_loadedA s.x s)
  case tya => exact runsTo_implied rfl rfl rfl (putA_eq_loadedA s.y s)

/-- Settles O23: X is written without its flags. -/
theorem tsxCopiesSPAndWritesNoFlag : Obligations.TsxCopiesSPAndWritesNoFlag := by
  intro s
  have hexec : exec .tsx s = .next (s.writeX s.sp) := rfl
  exact runsTo_implied rfl rfl hexec rfl

/-- Settles O24: SP is written with its flags. -/
theorem txsCopiesXAndSetsNZ : Obligations.TxsCopiesXAndSetsNZ := by
  intro s
  exact runsTo_implied rfl rfl rfl (putSP_eq_loadedSP s.x s)

end Sys2Proof.Machine
end

section
/-! O25: completion (60_exceptions.md R160). What an instruction does is the state `operate` answers, and the byte at PC decides
whether a step has an instruction to run. -/

namespace Sys2Proof.Machine

/-- R160: an instruction's one outcome is the next state that `operate` gives it. -/
theorem exists_exec_next (i : Instr) (s : State) : ∃ t, exec i s = .next t := ⟨_, exec_eq_operate i s⟩

/-- Settles O25: a step whose opcode has a length runs an instruction, which completes, and any other opcode is refused. -/
theorem everyInstructionCompletes : Obligations.EveryInstructionCompletes := by
  refine ⟨exists_exec_next, fun s => ?_⟩
  by_cases hundefined : opcodeLength (fetchOpcode s) = none
  case pos => exact .inr ⟨fetchOpcode s, hundefined, step_of_undefined hundefined⟩
  case neg => exact .inl (exists_step_next hundefined)

end Sys2Proof.Machine
end
